-- ==== Sys2Proof/Word.lean ====
section
/-! DEFINITION. The words of the command port (30_encoding.md R70, R71) and the status names (60_exceptions.md R190).
Every value here is an unsigned bit pattern; there are no signed values anywhere in this hardware (00_scope.md section 5). -/

namespace Sys2Proof

/-- The update unit: one byte of 8 bits (R9). -/
abbrev Byte := BitVec 8

/-- A 64-bit `arg` field or a 64-bit `data` field (R70, R71). -/
abbrev Data := BitVec 64

/-- The command word `CW`: 88 bits, one fixed length for every command and every width (R70, R80). -/
abbrev CommandWord := BitVec 88

/-- The response word `RW`: 68 bits (R71). -/
abbrev ResponseWord := BitVec 68

/-- The six status names (R190). Codes 6..15 are reserved and never produced, so the type has exactly six values. -/
inductive Status where
  /-- The command executed. -/
  | ok
  /-- BUILD refused the staged configuration (R192, R183). -/
  | errConfig
  /-- UPDATEW: offset + count > 8 (R193). -/
  | errRange
  /-- `op` is not one of the 13 opcodes (R196). -/
  | errIllegal
  /-- A must-be-zero field is not zero, `ctx >= NCTX`, or an operand exceeds W bits (R194). -/
  | errOperand
  /-- The command needs a built engine and there is none (R195). -/
  | errNotconf
  deriving DecidableEq, Repr

/-- One response: a status and 64 bits of data (R71). Its 68-bit form is `Response.word` in Decode.lean. -/
structure Response where
  status : Status
  data   : Data
  deriving DecidableEq, Repr

end Sys2Proof
end

