-- ==== Sys2Proof/Config.lean ====
section
/-! DEFINITION. The parameters of one instance, fixed at elaboration and never changed afterwards (00_scope.md R5 to R8).
An instance that R5, R6 or R8 does not allow cannot be written down as a `Config`; `Config.elaborate` refuses it (93 U7). -/

namespace Sys2Proof

/-- Byte order of a serialised value (R7). -/
inductive ByteOrder where
  | little
  | big
  deriving DecidableEq, Repr

/-- The width W together with the closed-form option, which exists at W = 16 only (R5, R8): the four datapaths. -/
inductive Datapath where
  /-- W = 16, table path: `CCITT16_CLOSED_FORM = false`. -/
  | table16
  /-- W = 16, `CCITT16_CLOSED_FORM = true` (46_ccitt16.md). -/
  | closed16
  /-- W = 32. -/
  | table32
  /-- W = 64. -/
  | table64
  deriving DecidableEq, Repr

/-- W in bits (R5). -/
def Datapath.bits : Datapath → Nat
  | .table16  => 16
  | .closed16 => 16
  | .table32  => 32
  | .table64  => 64

/-- The elaboration parameters of one instance. -/
structure Config where
  datapath : Datapath
  /-- `NCTX - 1`, so that NCTX is 1..256 by type (R6). -/
  nctxM1 : BitVec 8
  byteOrder : ByteOrder
  /-- `CCITT16_INIT` (R8); used by the host-side catalogue only (46_ccitt16.md R184). -/
  ccitt16Init : BitVec 16
  /-- `CCITT16_XOROUT` (R8); used by the host-side catalogue only. -/
  ccitt16Xorout : BitVec 16
  deriving DecidableEq, Repr

/-- The register width W (R5). -/
abbrev Config.w (c : Config) : Nat := c.datapath.bits

/-- The number of register contexts NCTX, 1..256 (R6). -/
def Config.nctx (c : Config) : Nat := c.nctxM1.toNat + 1

/-- `CCITT16_CLOSED_FORM` (R8). -/
def Config.closedForm (c : Config) : Bool :=
  match c.datapath with
  | .closed16 => true
  | .table16  => false
  | .table32  => false
  | .table64  => false

/-- The datapath for a width and the closed-form option, if there is one (R5, R8). -/
def Datapath.elaborate (width : Nat) (closed : Bool) : Option Datapath :=
  match width, closed with
  | 16, false => some .table16
  | 16, true  => some .closed16
  | 32, false => some .table32
  | 64, false => some .table64
  | _, _      => none

/-- Elaboration: every width other than 16, 32, 64, every NCTX outside 1..256, and the closed form at another width than
16 are refused (R5, R6, R8; 93_implementation_defined.md U7). -/
def Config.elaborate (width nctx : Nat) (order : ByteOrder) (closed : Bool) (init xorout : BitVec 16) : Option Config :=
  if 1 ≤ nctx ∧ nctx ≤ 256 then
    (Datapath.elaborate width closed).map fun d =>
      { datapath := d, nctxM1 := BitVec.ofNat 8 (nctx - 1), byteOrder := order,
        ccitt16Init := init, ccitt16Xorout := xorout }
  else none

/-- The instance `State.reset` is: CAVECRC-CORE/W32/N2, little, table path (DESIGN CHOICE, assumption 1: the spec leaves
the parameters OPEN; NCTX = 2 and `little` are its suggestions, R6 and R7). Every statement quantifies over all of them. -/
def Config.suggested : Config :=
  { datapath := .table32, nctxM1 := 1, byteOrder := .little, ccitt16Init := 0, ccitt16Xorout := 0 }

end Sys2Proof
end

