-- ==== Sys2Proof/Syntax.lean ====
section
/-! DEFINITION. The 13 commands of 30_encoding.md R76, one constructor per row of spec/opcode_table.json, with the operands
of R74 and R82 at the widths of their fields. -/

namespace Sys2Proof

/-- A command. `c` is a context index (the whole 8-bit `ctx` field), `imm` the whole 64-bit `arg` field: whether the context
exists and whether the operand fits W bits depends on the instance and is checked when the command executes (R73 check 2). -/
inductive Instr where
  /-- STATUS (R153). -/
  | status
  /-- SETPOLY imm (R100). -/
  | setpoly (imm : Data)
  /-- SETINIT imm (R101). -/
  | setinit (imm : Data)
  /-- SETXOR imm (R102). -/
  | setxor (imm : Data)
  /-- SETREF rin, rout (R103); true = 1. -/
  | setref (rin rout : Bool)
  /-- BUILD (R104). -/
  | build
  /-- UPDATE c, b (R124). -/
  | update (c : BitVec 8) (b : Byte)
  /-- UPDATEW c, o, n, buf (R126). -/
  | updatew (c : BitVec 8) (o n : BitVec 4) (buf : Data)
  /-- RESET c (R141). -/
  | reset (c : BitVec 8)
  /-- VALUE c (R137). -/
  | value (c : BitVec 8)
  /-- SEED c, imm (R139). -/
  | seed (c : BitVec 8) (imm : Data)
  /-- TABLE i (R150). -/
  | table (i : BitVec 8)
  /-- REFLECT imm (R172). -/
  | reflect (imm : Data)
  deriving DecidableEq, Repr

end Sys2Proof
end

