-- ==== Sys2Proof/WellFormed.lean ====
section
/-! DEFINITION. Well-formedness of a command for one instance: the part of check 2 of 30_encoding.md R73 that depends on the
parameters NCTX and W (R74, R78). The must-be-zero fields are the decoder's: no `Instr` has them. -/

namespace Sys2Proof

/-- The context exists: `ctx < NCTX` (R74). -/
def Config.hasContext (cfg : Config) (c : BitVec 8) : Bool := decide (c.toNat < cfg.nctx)

/-- The operand is a W-bit value: `arg[63:W] = 0` (R74). -/
def Config.fitsOperand (cfg : Config) (imm : Data) : Bool := decide (imm.toNat < 2 ^ cfg.w)

/-- A command that check 2 of R73 lets pass on the instance `cfg`. Every other one responds `ERR_OPERAND` (R78). -/
def Instr.wellFormed (cfg : Config) : Instr → Bool
  | .status          => true
  | .setpoly imm     => cfg.fitsOperand imm
  | .setinit imm     => cfg.fitsOperand imm
  | .setxor imm      => cfg.fitsOperand imm
  | .setref _ _      => true
  | .build           => true
  | .update c _      => cfg.hasContext c
  | .updatew c _ _ _ => cfg.hasContext c
  | .reset c         => cfg.hasContext c
  | .value c         => cfg.hasContext c
  | .seed c imm      => cfg.hasContext c && cfg.fitsOperand imm
  | .table _         => true
  | .reflect imm     => cfg.fitsOperand imm

end Sys2Proof
end

