-- ==== Sys2Proof/Decode.lean ====
section
/-! DEFINITION. Decoding and encoding of the 88-bit command word (30_encoding.md R70, R73, R74, R76, R82), and the 68-bit
response word (R71, 60_exceptions.md R190). The decoder makes check 1 of R73 and the part of check 2 that does not depend on
the instance (the must-be-zero fields); the commands make the rest of check 2 (assumption 5). -/

namespace Sys2Proof

/-- The four fields of a command word (R70). -/
structure Fields where
  op  : BitVec 8
  ctx : BitVec 8
  sel : BitVec 8
  arg : Data
  deriving DecidableEq, Repr

/-- `op` = CW[87:80], `ctx` = CW[79:72], `sel` = CW[71:64], `arg` = CW[63:0] (R70). -/
def splitWord (cw : CommandWord) : Fields :=
  { op := cw.extractLsb' 80 8, ctx := cw.extractLsb' 72 8, sel := cw.extractLsb' 64 8, arg := cw.extractLsb' 0 64 }

/-- The command word with the given fields (R70). -/
def packWord (f : Fields) : CommandWord := f.op ++ f.ctx ++ f.sel ++ f.arg

/-- What a command word decodes to. -/
inductive Decoded where
  /-- A command whose must-be-zero fields are zero. -/
  | instr (i : Instr)
  /-- `op` is not one of the 13 opcodes: `ERR_ILLEGAL` (R77). -/
  | illegal
  /-- A must-be-zero field or bit range of the format is not zero: `ERR_OPERAND` (R78). -/
  | operand
  deriving DecidableEq, Repr

/-! ## The eight formats of R74 -/

/-- Format N: `ctx`, `sel`, `arg` must be 0. -/
def formatN (f : Fields) (i : Instr) : Decoded :=
  if f.ctx = 0 ∧ f.sel = 0 ∧ f.arg = 0 then .instr i else .operand

/-- Format C: context; `sel`, `arg` must be 0. -/
def formatC (f : Fields) (mk : BitVec 8 → Instr) : Decoded :=
  if f.sel = 0 ∧ f.arg = 0 then .instr (mk f.ctx) else .operand

/-- Format A: `ctx`, `sel` must be 0; `arg` is the operand. -/
def formatA (f : Fields) (mk : Data → Instr) : Decoded :=
  if f.ctx = 0 ∧ f.sel = 0 then .instr (mk f.arg) else .operand

/-- Format CA: context; `sel` must be 0; `arg` is the operand. -/
def formatCA (f : Fields) (mk : BitVec 8 → Data → Instr) : Decoded :=
  if f.sel = 0 then .instr (mk f.ctx f.arg) else .operand

/-- Format R: `ctx`, `sel`, `arg[63:2]` must be 0; `arg[0]` = reflectInput, `arg[1]` = reflectOutput. -/
def formatR (f : Fields) (mk : Bool → Bool → Instr) : Decoded :=
  if f.ctx = 0 ∧ f.sel = 0 ∧ f.arg.extractLsb' 2 62 = 0 then .instr (mk (f.arg.getLsbD 0) (f.arg.getLsbD 1)) else .operand

/-- Format CB: context; `sel`, `arg[63:8]` must be 0; `arg[7:0]` is the byte. -/
def formatCB (f : Fields) (mk : BitVec 8 → Byte → Instr) : Decoded :=
  if f.sel = 0 ∧ f.arg.extractLsb' 8 56 = 0 then .instr (mk f.ctx (f.arg.extractLsb' 0 8)) else .operand

/-- Format CU: context; `sel[7:4]` = offset, `sel[3:0]` = count; every `arg` is legal. -/
def formatCU (f : Fields) (mk : BitVec 8 → BitVec 4 → BitVec 4 → Data → Instr) : Decoded :=
  .instr (mk f.ctx (f.sel.extractLsb' 4 4) (f.sel.extractLsb' 0 4) f.arg)

/-- Format X: `ctx`, `sel`, `arg[63:8]` must be 0; `arg[7:0]` is the table index. -/
def formatX (f : Fields) (mk : BitVec 8 → Instr) : Decoded :=
  if f.ctx = 0 ∧ f.sel = 0 ∧ f.arg.extractLsb' 8 56 = 0 then .instr (mk (f.arg.extractLsb' 0 8)) else .operand

/-! ## The opcode map of R76 -/

/-- The opcode of a command (R76). -/
def opcode : Instr → BitVec 8
  | .status          => 0x01#8
  | .setpoly _       => 0x10#8
  | .setinit _       => 0x11#8
  | .setxor _        => 0x12#8
  | .setref _ _      => 0x13#8
  | .build           => 0x14#8
  | .update _ _      => 0x20#8
  | .updatew _ _ _ _ => 0x21#8
  | .reset _         => 0x22#8
  | .value _         => 0x23#8
  | .seed _ _        => 0x24#8
  | .table _         => 0x25#8
  | .reflect _       => 0x30#8

/-- Decoding of the four fields (R73 check 1 and the instance-independent part of check 2; R74, R76). -/
def decodeFields (f : Fields) : Decoded :=
  if f.op = 0x01#8 then formatN f .status
  else if f.op = 0x10#8 then formatA f .setpoly
  else if f.op = 0x11#8 then formatA f .setinit
  else if f.op = 0x12#8 then formatA f .setxor
  else if f.op = 0x13#8 then formatR f .setref
  else if f.op = 0x14#8 then formatN f .build
  else if f.op = 0x20#8 then formatCB f .update
  else if f.op = 0x21#8 then formatCU f .updatew
  else if f.op = 0x22#8 then formatC f .reset
  else if f.op = 0x23#8 then formatC f .value
  else if f.op = 0x24#8 then formatCA f .seed
  else if f.op = 0x25#8 then formatX f .table
  else if f.op = 0x30#8 then formatA f .reflect
  else .illegal

/-- The decoder, total on the 2^88 command words (R73, R77, R78). -/
def decode (cw : CommandWord) : Decoded := decodeFields (splitWord cw)

/-! ## The encoder (R82) -/

/-- The fields of a command's word; fields not named are 0 (R82). -/
def fieldsOf : Instr → Fields
  | .status            => { op := 0x01#8, ctx := 0, sel := 0, arg := 0 }
  | .setpoly imm       => { op := 0x10#8, ctx := 0, sel := 0, arg := imm }
  | .setinit imm       => { op := 0x11#8, ctx := 0, sel := 0, arg := imm }
  | .setxor imm        => { op := 0x12#8, ctx := 0, sel := 0, arg := imm }
  | .setref rin rout   => { op := 0x13#8, ctx := 0, sel := 0, arg := BitVec.ofNat 64 (rin.toNat + 2 * rout.toNat) }
  | .build             => { op := 0x14#8, ctx := 0, sel := 0, arg := 0 }
  | .update c b        => { op := 0x20#8, ctx := c, sel := 0, arg := b.setWidth 64 }
  | .updatew c o n buf => { op := 0x21#8, ctx := c, sel := BitVec.ofNat 8 (16 * o.toNat + n.toNat), arg := buf }
  | .reset c           => { op := 0x22#8, ctx := c, sel := 0, arg := 0 }
  | .value c           => { op := 0x23#8, ctx := c, sel := 0, arg := 0 }
  | .seed c imm        => { op := 0x24#8, ctx := c, sel := 0, arg := imm }
  | .table i           => { op := 0x25#8, ctx := 0, sel := 0, arg := i.setWidth 64 }
  | .reflect imm       => { op := 0x30#8, ctx := 0, sel := 0, arg := imm }

/-- The command word of a command (R70, R82). -/
def encode (i : Instr) : CommandWord := packWord (fieldsOf i)

/-! ## The response word -/

/-- The 4-bit status code (R190). -/
def Status.code : Status → BitVec 4
  | .ok         => 0
  | .errConfig  => 1
  | .errRange   => 2
  | .errIllegal => 3
  | .errOperand => 4
  | .errNotconf => 5

/-- `RW[67:64]` = status, `RW[63:0]` = data (R71). -/
def Response.word (r : Response) : ResponseWord := r.status.code ++ r.data

/-! ## The host's access -/

/-- The command word whose bits, numbered as spec/opcode_table.json numbers them, are `w`: that table gives every row all 88
bits of the one word a command has, bit 0 being CW[0]. Bits above `nbits` are 0. -/
def tableWord (nbits w : Nat) : CommandWord := BitVec.ofNat 88 (w % 2 ^ nbits)

/-- The command the decoder reads from the word `w`; none where it refuses, and none for more bits than a command word has. -/
def decodeTableWord (nbits w : Nat) : Option Instr :=
  if nbits ≤ 88 then
    match decode (tableWord nbits w) with
    | .instr i => some i
    | .illegal => none
    | .operand => none
  else none

end Sys2Proof
end

