-- ==== Sys2Proof/Machine/Bits.lean ====
section
/-! DEFINITION. Bit reversal (45_reflect.md R170) and zero extension of a result (30_encoding.md R71). -/

namespace Sys2Proof.Machine

/-- The terms `x[i] * 2^(N-1-i)` of R170 for `i < k`; they occupy different bits, so OR adds them. -/
def reflectTerms {N : Nat} (x : BitVec N) : Nat → BitVec N
  | 0     => 0
  | i + 1 => reflectTerms x i ||| (if x.getLsbD i then BitVec.twoPow N (N - 1 - i) else 0)

/-- `reflect_N(x)`: the N-bit value whose bit `i` is `x[N-1-i]` (R170). -/
def reflect {N : Nat} (x : BitVec N) : BitVec N := reflectTerms x N

/-- `zext_64(v)` of a W-bit result (R71, 92 D28): never sign-extended. -/
def zext64 {w : Nat} (v : BitVec w) : Data := v.setWidth 64

end Sys2Proof.Machine
end

