-- ==== Sys2Proof/Machine/State.lean ====
section
/-! DEFINITION. The state of one instance (10_state.md R20): staging registers, active parameter set, CONFIGURED, table and
running registers, each at exactly its width; and, for the command port (30_encoding.md R72), the command words still to be
presented and the responses given. The instance's parameters stand beside them and never change (00_scope.md R5). -/

namespace Sys2Proof.Machine

/-- The lookup table `T[0..255]`: 256 entries of W bits, an address space of its own (R28, R50). -/
abbrev Table (w : Nat) := Vector (BitVec w) 256

/-- The whole state. The width of every W-bit item is the instance's W and the number of running registers is the instance's
NCTX, by type; so no item can hold a bit above bit W-1 and no context outside `0..NCTX-1` exists. -/
structure State where
  /-- The instance's elaboration parameters (R5 to R8); no step changes them. -/
  cfg : Config
  /-- `S_POLY` (R21). -/
  sPoly : BitVec cfg.w
  /-- `S_INIT` (R21). -/
  sInit : BitVec cfg.w
  /-- `S_XOR` (R21). -/
  sXor : BitVec cfg.w
  /-- `S_REFIN`, one bit, true = 1 (R22). -/
  sRefin : Bool
  /-- `S_REFOUT`, one bit, true = 1 (R22). -/
  sRefout : Bool
  /-- `CONFIGURED`, one bit, the only flag (R24, R33). -/
  configured : Bool
  /-- `A_POLY` (R25). -/
  aPoly : BitVec cfg.w
  /-- `A_INIT` (R25). -/
  aInit : BitVec cfg.w
  /-- `A_XOR` (R25). -/
  aXor : BitVec cfg.w
  /-- `A_REF`, one bit: true = reflected mode (R26, R27). -/
  aRef : Bool
  /-- `T[0..255]` (R28). -/
  table : Table cfg.w
  /-- `CRC[0..NCTX-1]` (R29). -/
  crc : Vector (BitVec cfg.w) cfg.nctx
  /-- The port's input: the command words the host has still to present, the next one first (R13, R15, R227). -/
  pending : List CommandWord
  /-- The port's output: the responses given so far, oldest first (R15). Its length is the position of R34. -/
  responses : List Response
  deriving DecidableEq, Repr

/-- Reasons for which a step stops with a fault. There is none: every command word in every state has exactly one next state
and one response (00_scope.md R4; 93_implementation_defined.md, after U10: nothing is stuck). An error is a response and a
next state, not a fault (60_exceptions.md R197). Nobody raises one; safe. -/
inductive Fault where
  deriving DecidableEq, Repr

/-- Reasons for which a command is refused. Only an instruction without a meaning would be; every one has its meaning. -/
inductive Refusal where
  /-- Raised by an arm of `exec` whose instruction is not modelled yet (no arm is); safe, nothing follows from it. -/
  | notModelled (mnemonic : String)
  deriving DecidableEq, Repr

/-- The contents power-on leaves unspecified (10_state.md R37, 93_implementation_defined.md U1). -/
structure PowerOnContents (cfg : Config) where
  aPoly : BitVec cfg.w
  aInit : BitVec cfg.w
  aXor : BitVec cfg.w
  aRef : Bool
  table : Table cfg.w
  crc : Vector (BitVec cfg.w) cfg.nctx
  deriving DecidableEq, Repr

/-- The state after power-on reset of the instance `cfg` whose unspecified contents happen to be `u` (R37, R220): the staging
registers and CONFIGURED are 0. No command word has been presented and no response given (R15). -/
def State.powerOn (cfg : Config) (u : PowerOnContents cfg) : State :=
  { cfg := cfg, sPoly := 0, sInit := 0, sXor := 0, sRefin := false, sRefout := false, configured := false,
    aPoly := u.aPoly, aInit := u.aInit, aXor := u.aXor, aRef := u.aRef, table := u.table, crc := u.crc,
    pending := [], responses := [] }

/-- The values this model names for the unspecified power-on contents (DESIGN CHOICE, assumption 2): all zero. -/
def PowerOnContents.zero (cfg : Config) : PowerOnContents cfg :=
  { aPoly := 0, aInit := 0, aXor := 0, aRef := false, table := Vector.replicate 256 0, crc := Vector.replicate _ 0 }

/-- The machine right after power-on reset, as the instance `Config.suggested` (R37, R220; assumptions 1 and 2). -/
def State.reset : State := State.powerOn Config.suggested (PowerOnContents.zero Config.suggested)

end Sys2Proof.Machine
end

