-- ==== Sys2Proof/Machine/TableGen.lean ====
section
/-! DEFINITION. The table generator: the two table entries of 40_table_generator.md R106 and R107 and the whole table. -/

namespace Sys2Proof.Machine

/-- One division step of the non-reflected build: the top bit is tested before the shift (R106). -/
def stepNonref {w : Nat} (poly v : BitVec w) : BitVec w :=
  if v.getLsbD (w - 1) then (v <<< 1) ^^^ poly else v <<< 1

/-- One division step of the reflected build with the reflected polynomial `rp`: bit 0 is tested before the shift (R107). -/
def stepRef {w : Nat} (rp v : BitVec w) : BitVec w :=
  if v.getLsbD 0 then (v >>> 1) ^^^ rp else v >>> 1

/-- `repeat n times` of R106 and R107. -/
def repeatStep {w : Nat} (f : BitVec w → BitVec w) : Nat → BitVec w → BitVec w
  | 0,     v => v
  | n + 1, v => repeatStep f n (f v)

/-- `tab_nonref_W(poly, i)`: the byte in the most significant byte, then 8 steps (R106; 90_conflicts.md C1). -/
def tabNonref {w : Nat} (poly : BitVec w) (i : Byte) : BitVec w :=
  repeatStep (stepNonref poly) 8 (i.setWidth w <<< (w - 8))

/-- `tab_ref_W(poly, i)`: the byte in the low bits, then 8 steps with the polynomial reflected at width W (R107). -/
def tabRef {w : Nat} (poly : BitVec w) (i : Byte) : BitVec w :=
  repeatStep (stepRef (reflect poly)) 8 (i.setWidth w)

/-- The table entry of the mode `ref` (R104, R110). -/
def tabEntry {w : Nat} (ref : Bool) (poly : BitVec w) (i : Byte) : BitVec w :=
  if ref then tabRef poly i else tabNonref poly i

/-- All 256 entries (R104): `T[i]` for `i` in 0..255. -/
def buildTable {w : Nat} (ref : Bool) (poly : BitVec w) : Table w :=
  ⟨((List.range 256).map fun i => tabEntry ref poly (BitVec.ofNat 8 i)).toArray, by simp⟩

/-- `T[i]`, that is `MemRead(i, 1)`: the index is an 8-bit quantity, so no index is out of range (20_memory.md R51). -/
def readEntry {w : Nat} (T : Table w) (i : Byte) : BitVec w := T[i.toNat]'i.isLt

end Sys2Proof.Machine
end

