-- ==== Sys2Proof/Machine/Ops.lean ====
section
/-! DEFINITION. The named operations over the state: responding, raising an error (60_exceptions.md R197), the registers, the
construction of an engine (40_table_generator.md R104), and the command port (30_encoding.md R72).
There is no return from an error (R202): nothing is saved, so nothing is restored. -/

namespace Sys2Proof.Machine

/-! ## Responses -/

/-- `respond(st, d)`: the command ends with this response, and the state is otherwise as the command left it (R71). -/
def respond (s : State) (st : Status) (d : Data) : State := { s with responses := s.responses ++ [⟨st, d⟩] }

/-- `raise ERR_X` as a state: the response `(ERR_X, 0)` and nothing else; no register, flag or table entry is written, nothing
is saved, no mode changes (R197, R190). This is this hardware's taking of an exception. -/
def raise (s : State) (e : Status) : State := respond s e 0

/-- A command that executed: `respond(OK, d)` (R73 check 5). -/
def complete (s : State) (d : Data) : Host.Outcome State Fault Refusal := .next (respond s .ok d)

/-- A command that failed with the error `e` (R197). -/
def fail (s : State) (e : Status) : Host.Outcome State Fault Refusal := .next (raise s e)

/-! ## Registers -/

/-- `S_POLY <- v` (R100). -/
def setSPoly (s : State) (v : BitVec s.cfg.w) : State := { s with sPoly := v }

/-- `S_INIT <- v` (R101). -/
def setSInit (s : State) (v : BitVec s.cfg.w) : State := { s with sInit := v }

/-- `S_XOR <- v` (R102). -/
def setSXor (s : State) (v : BitVec s.cfg.w) : State := { s with sXor := v }

/-- `S_REFIN <- rin; S_REFOUT <- rout`, always together (R103, R22). -/
def setSRef (s : State) (rin rout : Bool) : State := { s with sRefin := rin, sRefout := rout }

/-- `CRC[c]` (R29); a context is a number below NCTX (R31). -/
def readCrc (s : State) (c : Fin s.cfg.nctx) : BitVec s.cfg.w := s.crc[c.val]

/-- `CRC[c] <- v` (R29). -/
def writeCrc (s : State) (c : Fin s.cfg.nctx) (v : BitVec s.cfg.w) : State := { s with crc := s.crc.set c.val v c.isLt }

/-- The writes of a successful BUILD, all in one step (R104, R108, R109): the active set from the staging registers, the 256
table entries, every running register, CONFIGURED. -/
def installEngine (s : State) : State :=
  { s with
      aPoly := s.sPoly, aInit := s.sInit, aXor := s.sXor, aRef := s.sRefin
      table := buildTable s.sRefin s.sPoly
      crc := Vector.replicate s.cfg.nctx s.sInit
      configured := true }

/-- What BUILD checks before its first write: equal reflection flags (R105), and on a closed-form instance the one staged
configuration its datapath implements (46_ccitt16.md R183). -/
def buildAccepts (s : State) : Bool :=
  s.sRefin == s.sRefout && (!s.cfg.closedForm || (s.sRefin && s.sPoly == BitVec.ofNat s.cfg.w 0x1021))

/-! ## Views of the state at a fixed width -/

/-- `CRC[c]` as a 64-bit number, none where the context does not exist: for comparing states of one instance. -/
def crcData (s : State) (c : Nat) : Option Data := if h : c < s.cfg.nctx then some (zext64 s.crc[c]) else none

/-- The position in the program: the number of commands executed so far (R34). -/
def position (s : State) : Nat := s.responses.length

/-! ## The command port -/

/-- The next command word the host presents, and the state that has accepted it (R72, R227). -/
def takeCommand (s : State) : Option (CommandWord × State) :=
  match s.pending with
  | []         => none
  | cw :: rest => some (cw, { s with pending := rest })

/-- The host presents `cw` as the very next command word. -/
def presentCommand (s : State) (cw : CommandWord) : State := { s with pending := cw :: s.pending }

/-- No command is presented: the CORE holds its state unchanged (R209, R230). -/
def idle (s : State) : Host.Outcome State Fault Refusal := .next s

end Sys2Proof.Machine
end

