-- ==== Sys2Proof/Machine/Operands.lean ====
section
/-! DEFINITION. Operand forms and the checks they carry (30_encoding.md R73 checks 2 and 3, R74, R75; 20_memory.md R55). -/

namespace Sys2Proof.Machine

/-- A W-bit operand `arg[W-1:0]`, when `arg[63:W] = 0`; otherwise `ERR_OPERAND`, never a truncation (R74, R75, R78). -/
def withOperand (s : State) (arg : Data) (k : BitVec s.cfg.w → Host.Outcome State Fault Refusal) :
    Host.Outcome State Fault Refusal :=
  if arg >>> s.cfg.w = 0 then k (arg.setWidth s.cfg.w) else fail s .errOperand

/-- A context operand, when `ctx < NCTX`; otherwise `ERR_OPERAND` (R74, R194). -/
def withContext (s : State) (c : BitVec 8) (k : Fin s.cfg.nctx → Host.Outcome State Fault Refusal) :
    Host.Outcome State Fault Refusal :=
  if h : c.toNat < s.cfg.nctx then k ⟨c.toNat, h⟩ else fail s .errOperand

/-- Check 3 of R73: a command that needs a built engine (R195). -/
def whenConfigured (s : State) (k : Host.Outcome State Fault Refusal) : Host.Outcome State Fault Refusal :=
  if s.configured then k else fail s .errNotconf

/-- Byte `k` of the UPDATEW buffer: `arg[8k+7 : 8k]` (20_memory.md R55). -/
def lane (buf : Data) (k : Nat) : Byte := buf.extractLsb' (8 * k) 8

/-- Lanes `o, o+1, ..., o+n-1` in that order (20_memory.md R56). -/
def lanes (buf : Data) (o n : Nat) : List Byte := (List.range n).map fun j => lane buf (o + j)

/-- The sub-range is inside the 8-byte buffer; `o + n` is computed without wrap-around (41_update_engine.md R127). -/
def rangeInside (o n : BitVec 4) : Bool := decide (o.toNat + n.toNat ≤ 8)

end Sys2Proof.Machine
end

