-- ==== Sys2Proof/Machine/Construct.lean ====
section
/-! DEFINITION. SETPOLY, SETINIT, SETXOR, SETREF, BUILD (40_table_generator.md R100 to R105, 46_ccitt16.md R183). -/

namespace Sys2Proof.Machine

/-- SETPOLY imm: `S_POLY <- arg[W-1:0]` (R100). -/
def execSetpoly (imm : Data) (s : State) : Host.Outcome State Fault Refusal :=
  withOperand s imm fun v => complete (setSPoly s v) 0

/-- SETINIT imm: `S_INIT <- arg[W-1:0]` (R101). -/
def execSetinit (imm : Data) (s : State) : Host.Outcome State Fault Refusal :=
  withOperand s imm fun v => complete (setSInit s v) 0

/-- SETXOR imm: `S_XOR <- arg[W-1:0]` (R102). -/
def execSetxor (imm : Data) (s : State) : Host.Outcome State Fault Refusal :=
  withOperand s imm fun v => complete (setSXor s v) 0

/-- SETREF rin, rout: all four combinations are accepted (R103, R23). -/
def execSetref (rin rout : Bool) (s : State) : Host.Outcome State Fault Refusal :=
  complete (setSRef s rin rout) 0

/-- BUILD: the check, then the construction in one atomic step; a refused BUILD writes nothing (R104, R105, R109). -/
def execBuild (s : State) : Host.Outcome State Fault Refusal :=
  if buildAccepts s then complete (installEngine s) 0 else fail s .errConfig

end Sys2Proof.Machine
end

