-- ==== Sys2Proof/Machine/Finalize.lean ====
section
/-! DEFINITION. Finalization, seeding and register reset: RESET, VALUE, SEED (42_finalize_reset.md R135 to R141). -/

namespace Sys2Proof.Machine

/-- `fin_W(ref, r, x)`: the final XOR, and in non-reflected mode the complement at width W (R135, R136; 90_conflicts.md C2). -/
def fin {w : Nat} (ref : Bool) (r x : BitVec w) : BitVec w :=
  if ref then r ^^^ x else ~~~r ^^^ x

/-- RESET c: `CRC[c] <- A_INIT` (R141). -/
def execReset (c : BitVec 8) (s : State) : Host.Outcome State Fault Refusal :=
  withContext s c fun k => whenConfigured s (complete (writeCrc s k s.aInit) 0)

/-- VALUE c: responds with the finalized register and writes nothing (R137, R138). -/
def execValue (c : BitVec 8) (s : State) : Host.Outcome State Fault Refusal :=
  withContext s c fun k => whenConfigured s (complete s (zext64 (fin s.aRef (readCrc s k) s.aXor)))

/-- SEED c, imm: `CRC[c] <- arg[W-1:0]`, the raw register (R139). -/
def execSeed (c : BitVec 8) (imm : Data) (s : State) : Host.Outcome State Fault Refusal :=
  withContext s c fun k => withOperand s imm fun v => whenConfigured s (complete (writeCrc s k v) 0)

end Sys2Proof.Machine
end

