-- ==== Sys2Proof/Machine/Flags.lean ====
section
/-! DEFINITION. The flag CONFIGURED and the status word (10_state.md R24, R32, R33). There are no condition codes, no carry and
no overflow flag (R33): no command computes any other flag. -/

namespace Sys2Proof.Machine

/-- WCODE: 0 for W = 16, 1 for W = 32, 2 for W = 64 (R32). -/
def wcode (cfg : Config) : BitVec 2 :=
  match cfg.datapath with
  | .table16  => 0
  | .closed16 => 0
  | .table32  => 1
  | .table64  => 2

/-- Bit 1 of the status word: A_REF if CONFIGURED = 1, else 0 (R32, R153). -/
def refBit (s : State) : Bool := s.configured && s.aRef

/-- The 64-bit status word: 63:16 zero, 15:8 NCTX - 1, 7:4 zero, 3:2 WCODE, 1 REF, 0 CONFIGURED (R32). -/
def statusWord (s : State) : Data :=
  (0 : BitVec 48) ++ BitVec.ofNat 8 (s.cfg.nctx - 1) ++ (0 : BitVec 4) ++ wcode s.cfg ++
    BitVec.ofBool (refBit s) ++ BitVec.ofBool s.configured

end Sys2Proof.Machine
end

