-- ==== Sys2Proof/Machine/Query.lean ====
section
/-! DEFINITION. The pure reads STATUS, TABLE, REFLECT (43_table_clone_status.md R150, R153; 45_reflect.md R172). -/

namespace Sys2Proof.Machine

/-- STATUS: the status word (R153). -/
def execStatus (s : State) : Host.Outcome State Fault Refusal := complete s (statusWord s)

/-- TABLE i: a copy of entry `i` (R150, R152). -/
def execTable (i : BitVec 8) (s : State) : Host.Outcome State Fault Refusal :=
  whenConfigured s (complete s (zext64 (readEntry s.table i)))

/-- REFLECT imm: the operand reversed at width W; reads no state (R172). -/
def execReflect (imm : Data) (s : State) : Host.Outcome State Fault Refusal :=
  withOperand s imm fun v => complete s (zext64 (reflect v))

end Sys2Proof.Machine
end

