-- ==== Sys2Proof/Machine/Update.lean ====
section
/-! DEFINITION. The register update engine: the per-byte updates, the fold over a sequence, UPDATE and UPDATEW
(41_update_engine.md R120 to R127). -/

namespace Sys2Proof.Machine

/-- `(v AND 0xFF)` as the 8-bit table index (R120, R121). -/
def lowByte {w : Nat} (v : BitVec w) : Byte := (v &&& BitVec.ofNat w 0xFF).setWidth 8

/-- `upd_ref_W(r, b, T)` (R120). -/
def updRef {w : Nat} (r : BitVec w) (b : Byte) (T : Table w) : BitVec w :=
  (r >>> 8) ^^^ readEntry T (lowByte (r ^^^ b.setWidth w))

/-- `upd_nonref_W(r, b, T)` (R121). -/
def updNonref {w : Nat} (r : BitVec w) (b : Byte) (T : Table w) : BitVec w :=
  (r <<< 8) ^^^ readEntry T (lowByte ((r >>> (w - 8)) ^^^ b.setWidth w))

/-- `upd_W(ref, r, b, T)` (R122). -/
def upd {w : Nat} (ref : Bool) (r : BitVec w) (b : Byte) (T : Table w) : BitVec w :=
  if ref then updRef r b T else updNonref r b T

/-- `fold_W(ref, r, bs, T)`: the bytes in sequence order, first byte first (R123, 20_memory.md R56). -/
def fold {w : Nat} (ref : Bool) (r : BitVec w) (bs : List Byte) (T : Table w) : BitVec w :=
  match bs with
  | []        => r
  | b :: rest => fold ref (upd ref r b T) rest T

/-- UPDATE c, b: `CRC[c] <- upd_W(A_REF, CRC[c], b, T)` (R124). -/
def execUpdate (c : BitVec 8) (b : Byte) (s : State) : Host.Outcome State Fault Refusal :=
  withContext s c fun k => whenConfigured s (complete (writeCrc s k (upd s.aRef (readCrc s k) b s.table)) 0)

/-- UPDATEW c, o, n, buf: the range check before the first byte, then lanes `o .. o+n-1` in ascending order (R126, R127). -/
def execUpdatew (c : BitVec 8) (o n : BitVec 4) (buf : Data) (s : State) : Host.Outcome State Fault Refusal :=
  withContext s c fun k => whenConfigured s (
    if rangeInside o n then
      complete (writeCrc s k (fold s.aRef (readCrc s k) (lanes buf o.toNat n.toNat) s.table)) 0
    else fail s .errRange)

end Sys2Proof.Machine
end

