-- ==== Sys2Proof/Machine/Dispatch.lean ====
section
/-! DEFINITION. One arm per command: the dispatch to the meanings (30_encoding.md R76). -/

namespace Sys2Proof.Machine

def exec (i : Instr) (s : State) : Host.Outcome State Fault Refusal :=
  match i with
  | .status => Sys2Proof.Machine.execStatus s
  | .setpoly imm => Sys2Proof.Machine.execSetpoly imm s
  | .setinit imm => Sys2Proof.Machine.execSetinit imm s
  | .setxor imm => Sys2Proof.Machine.execSetxor imm s
  | .setref rin rout => Sys2Proof.Machine.execSetref rin rout s
  | .build => Sys2Proof.Machine.execBuild s
  | .update c b => Sys2Proof.Machine.execUpdate c b s
  | .updatew c o n buf => Sys2Proof.Machine.execUpdatew c o n buf s
  | .reset c => Sys2Proof.Machine.execReset c s
  | .value c => Sys2Proof.Machine.execValue c s
  | .seed c imm => Sys2Proof.Machine.execSeed c imm s
  | .table idx => Sys2Proof.Machine.execTable idx s
  | .reflect imm => Sys2Proof.Machine.execReflect imm s

end Sys2Proof.Machine
end

