-- ==== Sys2Proof/Machine/Command.lean ====
section
/-! DEFINITION. What one command word does: decoding (checks 1 and 2 of 30_encoding.md R73), then the command or the error. -/

namespace Sys2Proof.Machine

/-- The effect of the command word `cw` on the state that has accepted it (R73). -/
def execWord (cw : CommandWord) (s : State) : Host.Outcome State Fault Refusal :=
  match decode cw with
  | .instr i => exec i s
  | .illegal => fail s .errIllegal
  | .operand => fail s .errOperand

/-- The commands of a list one after the other, in order (20_memory.md R60); it stops where one does. -/
def execAll : List Instr → State → Host.Outcome State Fault Refusal
  | [],        s => .next s
  | i :: rest, s =>
    match exec i s with
    | .next t    => execAll rest t
    | .fault r   => .fault r
    | .refused r => .refused r

end Sys2Proof.Machine
end

