-- ==== Sys2Proof/Machine/Step.lean ====
section
/-! DEFINITION. One step: the next command word the host presents is accepted, decoded and executed as one indivisible step
(20_memory.md R60); with none presented the state is held (70_reset_and_hazards.md R230). -/

namespace Sys2Proof.Machine

/-- One step of the CORE: one command (R60, R230), or none. -/
def step (s : State) : Host.Outcome State Fault Refusal :=
  match takeCommand s with
  | none          => idle s
  | some (cw, s') => execWord cw s'

/-- The state in which the host presents the word `w` of spec/opcode_table.json's numbering as the very next command word. -/
def State.withFetchWord (s : State) (nbits w : Nat) : State := presentCommand s (tableWord nbits w)

end Sys2Proof.Machine
end

