-- ==== Sys2Proof/Machine/Ccitt16.lean ====
section
/-! DEFINITION. The closed-form update of the table-free 16-bit variant (46_ccitt16.md R182). No meaning calls it: it is not
observable which of the two datapaths an instance evaluates (R181, 10_state.md R38); the refusal of other configurations, which
is observable, is in `buildAccepts` (R183). -/

namespace Sys2Proof.Machine

/-- The byte `d` of R182 after its low nibble is folded into its high nibble. -/
def closedByte (r : BitVec 16) (b : Byte) : Byte :=
  let d := b ^^^ r.extractLsb' 0 8
  d ^^^ (d <<< 4)

/-- `closed(r, b)` (R182). -/
def closedUpdate (r : BitVec 16) (b : Byte) : BitVec 16 :=
  let d := closedByte r b
  ((d ++ (0 : BitVec 8)) ||| (r >>> 8)) ^^^ (d >>> 4).setWidth 16 ^^^ (d.setWidth 16 <<< 3)

end Sys2Proof.Machine
end

