-- ==== Sys2Proof/Machine/Pseudo.lean ====
section
/-! DEFINITION. The pseudo-instructions of 30_encoding.md R83 and the host-side catalogue of 44_catalog.md R161. They are no
commands and no hardware state: constant data and expansions of the host (92_eei_decisions.md D32). -/

namespace Sys2Proof.Machine

/-- A parameter set of the catalogue (R161), as the operands of SETPOLY, SETINIT, SETXOR and SETREF. -/
structure Preset where
  name  : String
  width : Nat
  sPoly : Data
  sInit : Data
  sXor  : Data
  ref   : Bool
  deriving DecidableEq, Repr

/-- `ONES_W` as an operand (00_scope.md section 5). -/
def onesOperand (w : Nat) : Data := BitVec.ofNat 64 (2 ^ w - 1)

/-- The finalXor to program for a catalogue's `xorout` (44_catalog.md R162). -/
def programmedXor (w : Nat) (ref : Bool) (xorout : Data) : Data := if ref then xorout else xorout ^^^ onesOperand w

/-- A row of R161 from its columns name, W, S_POLY, S_INIT, ref, xorout. -/
def presetRow (name : String) (w : Nat) (poly init : Data) (ref : Bool) (xorout : Data) : Preset :=
  { name := name, width := w, sPoly := poly, sInit := init, sXor := programmedXor w ref xorout, ref := ref }

/-- The 32-bit rows of R161. -/
def catalog32 : List Preset :=
  [ presetRow "CRC-32" 32 0x04C11DB7 0xFFFFFFFF true 0xFFFFFFFF,
    presetRow "CRC-32/AUTOSAR" 32 0xF4ACFB13 0xFFFFFFFF true 0xFFFFFFFF,
    presetRow "CRC-32/BZIP2" 32 0x04C11DB7 0xFFFFFFFF false 0xFFFFFFFF,
    presetRow "CRC-32C" 32 0x1EDC6F41 0xFFFFFFFF true 0xFFFFFFFF,
    presetRow "CRC-32D" 32 0xA833982B 0xFFFFFFFF true 0xFFFFFFFF,
    presetRow "CRC-32/MPEG-2" 32 0x04C11DB7 0xFFFFFFFF false 0x00000000,
    presetRow "CRC-32/POSIX" 32 0x04C11DB7 0x00000000 false 0xFFFFFFFF,
    presetRow "CRC-32Q" 32 0x814141AB 0x00000000 false 0x00000000 ]

/-- The 64-bit rows of R161. -/
def catalog64 : List Preset :=
  [ presetRow "CRC-64/XZ" 64 0x42F0E1EBA9EA3693 0xFFFFFFFFFFFFFFFF true 0xFFFFFFFFFFFFFFFF,
    presetRow "CRC-64/WE" 64 0x42F0E1EBA9EA3693 0xFFFFFFFFFFFFFFFF false 0xFFFFFFFFFFFFFFFF,
    presetRow "CRC-64" 64 0x42F0E1EBA9EA3693 0x0000000000000000 false 0x0000000000000000 ]

/-- The CCITT16 row: initializer and final XOR are the parameters `CCITT16_INIT` and `CCITT16_XOROUT` (R184, 92 D27). -/
def ccitt16Preset (init xorout : BitVec 16) : Preset :=
  presetRow "CCITT16" 16 0x1021 (zext64 init) true (zext64 xorout)

/-- The catalogue of an instance (R161). -/
def catalog (cfg : Config) : List Preset :=
  catalog32 ++ catalog64 ++ [ccitt16Preset cfg.ccitt16Init cfg.ccitt16Xorout]

/-- The pseudo-instructions of R83. -/
inductive Pseudo where
  /-- `CLONE c` (43_table_clone_status.md R156). -/
  | clone (c : BitVec 8)
  /-- `PRESET name` (44_catalog.md R164). -/
  | preset (name : String)
  /-- `UPDATES c, bytes`. -/
  | updates (c : BitVec 8) (bytes : List Byte)
  /-- `HASH c, bytes`. -/
  | hash (c : BitVec 8) (bytes : List Byte)
  deriving DecidableEq, Repr

/-- The five commands of `PRESET` (R83, R164). -/
def presetCommands (p : Preset) : List Instr :=
  [.setpoly p.sPoly, .setinit p.sInit, .setxor p.sXor, .setref p.ref p.ref, .build]

/-- One UPDATE per byte, in order (R83). -/
def updateCommands (c : BitVec 8) (bytes : List Byte) : List Instr := bytes.map fun b => .update c b

/-- The expansion of a pseudo-instruction on the instance `cfg`; none where the assembler refuses it: an unknown name, or a row
of another width (R83, R164, 60_exceptions.md R201). -/
def expand (cfg : Config) : Pseudo → Option (List Instr)
  | .clone c         => some [.reset c]
  | .preset name     =>
    match (catalog cfg).find? fun p => p.name == name with
    | some p => if p.width = cfg.w then some (presetCommands p) else none
    | none   => none
  | .updates c bytes => some (updateCommands c bytes)
  | .hash c bytes    => some ([.reset c] ++ updateCommands c bytes ++ [.value c])

end Sys2Proof.Machine
end

