-- ==== Sys2Proof/Machine/Serial.lean ====
section
/-! DEFINITION. Serialisation of a W-bit value (20_memory.md R58). It is outside the command set (R59): an integration that
stores or transmits a value uses it with the instance's `BYTE_ORDER` (00_scope.md R7). -/

namespace Sys2Proof.Machine

/-- Bytes `0 .. n-1` of `v`, least significant first. -/
def littleBytes {w : Nat} (v : BitVec w) (n : Nat) : List Byte := (List.range n).map fun k => v.extractLsb' (8 * k) 8

/-- `ser_W(v, order)`, W/8 bytes (R58). -/
def ser {w : Nat} (v : BitVec w) : ByteOrder → List Byte
  | .little => littleBytes v (w / 8)
  | .big    => (littleBytes v (w / 8)).reverse

/-- `sum over k of bytes[k] * 2^(8k)` (R58). -/
def littleSum : List Byte → Nat
  | []        => 0
  | b :: rest => b.toNat + 256 * littleSum rest

/-- `sum over k of bytes[k] * 2^(8(n-1-k))` (R58). -/
def bigSum : List Byte → Nat
  | []        => 0
  | b :: rest => b.toNat * 256 ^ rest.length + bigSum rest

/-- `deser_W(bytes, order)` (R58). -/
def deser (w : Nat) (bytes : List Byte) : ByteOrder → BitVec w
  | .little => BitVec.ofNat w (littleSum bytes)
  | .big    => BitVec.ofNat w (bigSum bytes)

/-- The bytes an integration of the instance `cfg` stores for the value `v` (R7, R59). -/
def serialise (cfg : Config) (v : BitVec cfg.w) : List Byte := ser v cfg.byteOrder

/-- The value an integration of the instance `cfg` reads back. -/
def deserialise (cfg : Config) (bytes : List Byte) : BitVec cfg.w := deser cfg.w bytes cfg.byteOrder

end Sys2Proof.Machine
end

