-- ==== Sys2Proof/Safety.lean ====
section
/-! DEFINITION. The terms the statements use: the engine invariant (10_state.md R28), the formats and the order of checks as the
spec tabulates them (30_encoding.md R73, R74, R76), and the relations between states that isolation and the power-on contents
need (R30, 70_reset_and_hazards.md R222). Nothing here is executed by the machine. -/

namespace Sys2Proof

/-- The datapath of the general instance of the same width. -/
def Datapath.general : Datapath → Datapath
  | .closed16 => .table16
  | .table16  => .table16
  | .table32  => .table32
  | .table64  => .table64

/-- The general table-based instance with the same parameters otherwise (R181). -/
def Config.general (c : Config) : Config := { c with datapath := c.datapath.general }

end Sys2Proof

namespace Sys2Proof.Machine

/-! ## The engine invariant -/

/-- While CONFIGURED = 1, every table entry is the one the table generator gives for the active polynomial and mode (R28); and a
closed-form instance holds the one configuration its datapath implements (R183). -/
def State.Inv (s : State) : Prop :=
  s.configured = true →
    (∀ i : Byte, readEntry s.table i = if s.aRef then tabRef s.aPoly i else tabNonref s.aPoly i) ∧
    (s.cfg.closedForm = true → s.aRef = true ∧ s.aPoly = BitVec.ofNat s.cfg.w 0x1021)

/-! ## The checks of R73, from the tables of R74 and R76 -/

/-- The eight formats (R74). -/
inductive Format where
  | n | c | a | ca | r | cb | cu | x
  deriving DecidableEq, Repr

/-- The opcode map: `op` and format of the 13 commands (R76). -/
def opcodeMap : List (BitVec 8 × Format) :=
  [(0x01#8, .n), (0x10#8, .a), (0x11#8, .a), (0x12#8, .a), (0x13#8, .r), (0x14#8, .n), (0x20#8, .cb), (0x21#8, .cu), (0x22#8, .c), (0x23#8, .c),
   (0x24#8, .ca), (0x25#8, .x), (0x30#8, .a)]

/-- `op` is one of the 13 opcodes (R73 check 1). -/
def legalOp (op : BitVec 8) : Bool := opcodeMap.any fun e => op == e.1

/-- The fields hold what the format allows on the instance `cfg` (R74; R73 check 2). -/
def formatAllows (cfg : Config) (f : Fields) : Format → Bool
  | .n  => decide (f.ctx.toNat = 0 ∧ f.sel.toNat = 0 ∧ f.arg.toNat = 0)
  | .c  => decide (f.ctx.toNat < cfg.nctx ∧ f.sel.toNat = 0 ∧ f.arg.toNat = 0)
  | .a  => decide (f.ctx.toNat = 0 ∧ f.sel.toNat = 0 ∧ f.arg.toNat < 2 ^ cfg.w)
  | .ca => decide (f.ctx.toNat < cfg.nctx ∧ f.sel.toNat = 0 ∧ f.arg.toNat < 2 ^ cfg.w)
  | .r  => decide (f.ctx.toNat = 0 ∧ f.sel.toNat = 0 ∧ f.arg.toNat < 4)
  | .cb => decide (f.ctx.toNat < cfg.nctx ∧ f.sel.toNat = 0 ∧ f.arg.toNat < 256)
  | .cu => decide (f.ctx.toNat < cfg.nctx)
  | .x  => decide (f.ctx.toNat = 0 ∧ f.sel.toNat = 0 ∧ f.arg.toNat < 256)

/-- The fields pass check 2 of R73 for their opcode. -/
def fieldsAllowed (cfg : Config) (f : Fields) : Bool := opcodeMap.any fun e => f.op == e.1 && formatAllows cfg f e.2

/-- The column "needs CONFIGURED" of R76. -/
def needsConfigured (op : BitVec 8) : Bool := decide (0x20 ≤ op.toNat ∧ op.toNat ≤ 0x25)

/-- The staged configuration is one BUILD refuses (R105, R183). -/
def stagedRefused (s : State) : Bool :=
  decide (s.sRefin ≠ s.sRefout ∨ (s.cfg.closedForm = true ∧ ¬ (s.sPoly.toNat = 0x1021 ∧ s.sRefin = true)))

/-- The status of the response to `cw`: the first check of R73 that fails decides it (R73, R198). -/
def expectedStatus (s : State) (cw : CommandWord) : Status :=
  let f := splitWord cw
  if legalOp f.op = false then .errIllegal
  else if fieldsAllowed s.cfg f = false then .errOperand
  else if needsConfigured f.op = true ∧ s.configured = false then .errNotconf
  else if f.op = 0x21#8 ∧ 8 < f.sel.toNat / 16 + f.sel.toNat % 16 then .errRange
  else if f.op = 0x14#8 ∧ stagedRefused s = true then .errConfig
  else .ok

/-- The commands whose `OK` response carries a result; every other one responds with data 0 (R71). -/
def hasResult : Instr → Bool
  | .status          => true
  | .setpoly _       => false
  | .setinit _       => false
  | .setxor _        => false
  | .setref _ _      => false
  | .build           => false
  | .update _ _      => false
  | .updatew _ _ _ _ => false
  | .reset _         => false
  | .value _         => true
  | .seed _ _        => false
  | .table _         => true
  | .reflect _       => true

/-- `t` differs from `s` at most in the state the write matrix marks for the command (10_state.md R39). -/
def writesOnly (s t : State) : Instr → Prop
  | .status          => t = s
  | .setpoly _       => ∃ v, t = { s with sPoly := v }
  | .setinit _       => ∃ v, t = { s with sInit := v }
  | .setxor _        => ∃ v, t = { s with sXor := v }
  | .setref _ _      => ∃ a b, t = { s with sRefin := a, sRefout := b }
  | .build           => ∃ b p i x r T C, t =
      { s with configured := b, aPoly := p, aInit := i, aXor := x, aRef := r, table := T, crc := C }
  | .update c _      => ∃ (h : c.toNat < s.cfg.nctx) (v : BitVec s.cfg.w), t = { s with crc := s.crc.set c.toNat v h }
  | .updatew c _ _ _ => ∃ (h : c.toNat < s.cfg.nctx) (v : BitVec s.cfg.w), t = { s with crc := s.crc.set c.toNat v h }
  | .reset c         => ∃ (h : c.toNat < s.cfg.nctx) (v : BitVec s.cfg.w), t = { s with crc := s.crc.set c.toNat v h }
  | .value _         => t = s
  | .seed c _        => ∃ (h : c.toNat < s.cfg.nctx) (v : BitVec s.cfg.w), t = { s with crc := s.crc.set c.toNat v h }
  | .table _         => t = s
  | .reflect _       => t = s

/-! ## Contexts and messages -/

/-- The context a command addresses (the formats with a context, R74). -/
def addressed : Instr → Option (BitVec 8)
  | .status          => none
  | .setpoly _       => none
  | .setinit _       => none
  | .setxor _        => none
  | .setref _ _      => none
  | .build           => none
  | .update c _      => some c
  | .updatew c _ _ _ => some c
  | .reset c         => some c
  | .value c         => some c
  | .seed c _        => some c
  | .table _         => none
  | .reflect _       => none

/-- The command may change `CRC[c]` otherwise than by delivering message bytes to it: RESET and SEED on `c`, and BUILD (R39). -/
def interrupts (c : BitVec 8) : Instr → Bool
  | .status          => false
  | .setpoly _       => false
  | .setinit _       => false
  | .setxor _        => false
  | .setref _ _      => false
  | .build           => true
  | .update _ _      => false
  | .updatew _ _ _ _ => false
  | .reset d         => d == c
  | .value _         => false
  | .seed d _        => d == c
  | .table _         => false
  | .reflect _       => false

/-- The message bytes a command delivers to context `c`: one by UPDATE, those of the range by UPDATEW, none when the range is
refused (R124, R126, R127). -/
def delivered (c : BitVec 8) : Instr → List Byte
  | .status          => []
  | .setpoly _       => []
  | .setinit _       => []
  | .setxor _        => []
  | .setref _ _      => []
  | .build           => []
  | .update d b      => if d = c then [b] else []
  | .updatew d o n buf => if d = c ∧ o.toNat + n.toNat ≤ 8 then lanes buf o.toNat n.toNat else []
  | .reset _         => []
  | .value _         => []
  | .seed _ _        => []
  | .table _         => []
  | .reflect _       => []

/-- The command, executed in `s`, writes nothing to `CRC[c]`: it delivers no byte to `c` and is neither RESET nor SEED on `c` nor
BUILD (R39); or it is answered with an error, and so writes nothing at all (R197). -/
def LeavesRegister (c : BitVec 8) (s : State) (i : Instr) : Prop :=
  (interrupts c i = false ∧ delivered c i = []) ∨ ∃ e, e ≠ .ok ∧ exec i s = .next (raise s e)

/-- No command of the list, executed one after the other from `s`, writes to `CRC[c]`. -/
def NoWriteTo (c : BitVec 8) : List Instr → State → Prop
  | [],        _ => True
  | i :: rest, s => LeavesRegister c s i ∧ ∀ t, exec i s = .next t → NoWriteTo c rest t

/-- The message "123456789", 9 bytes (41_update_engine.md R125). -/
def checkMessage : List Byte := [0x31, 0x32, 0x33, 0x34, 0x35, 0x36, 0x37, 0x38, 0x39]

/-- The message "Check123!", 9 bytes (R125). -/
def secondMessage : List Byte := [0x43, 0x68, 0x65, 0x63, 0x6B, 0x31, 0x32, 0x33, 0x21]

/-- A value the source states for a message under a row of the catalogue (44_catalog.md R163). -/
structure StatedValue where
  preset  : Preset
  message : List Byte
  value   : Data
  deriving DecidableEq, Repr

/-- The eleven values of R163, with the parameter sets of R161. -/
def statedValues : List StatedValue :=
  [ ⟨presetRow "CRC-32" 32 0x04C11DB7 0xFFFFFFFF true 0xFFFFFFFF, checkMessage, 0xCBF43926⟩,
    ⟨presetRow "CRC-32/BZIP2" 32 0x04C11DB7 0xFFFFFFFF false 0xFFFFFFFF, checkMessage, 0xFC891918⟩,
    ⟨presetRow "CRC-32C" 32 0x1EDC6F41 0xFFFFFFFF true 0xFFFFFFFF, checkMessage, 0xE3069283⟩,
    ⟨presetRow "CRC-32D" 32 0xA833982B 0xFFFFFFFF true 0xFFFFFFFF, checkMessage, 0x87315576⟩,
    ⟨presetRow "CRC-32/MPEG-2" 32 0x04C11DB7 0xFFFFFFFF false 0x00000000, checkMessage, 0x0376E6E7⟩,
    ⟨presetRow "CRC-64/XZ" 64 0x42F0E1EBA9EA3693 0xFFFFFFFFFFFFFFFF true 0xFFFFFFFFFFFFFFFF, checkMessage, 0x995DC9BBDF1939FA⟩,
    ⟨presetRow "CRC-32" 32 0x04C11DB7 0xFFFFFFFF true 0xFFFFFFFF, secondMessage, 0x6C6E13DC⟩,
    ⟨presetRow "CRC-32/BZIP2" 32 0x04C11DB7 0xFFFFFFFF false 0xFFFFFFFF, secondMessage, 0x292C603E⟩,
    ⟨presetRow "CRC-32C" 32 0x1EDC6F41 0xFFFFFFFF true 0xFFFFFFFF, secondMessage, 0x29AF14D2⟩,
    ⟨presetRow "CRC-32D" 32 0xA833982B 0xFFFFFFFF true 0xFFFFFFFF, secondMessage, 0x74276C40⟩,
    ⟨presetRow "CRC-32/MPEG-2" 32 0x04C11DB7 0xFFFFFFFF false 0x00000000, secondMessage, 0xD6D39FC1⟩ ]

/-! ## The power-on contents -/

/-- `s` with other contents in the items that power-on leaves unspecified (R37, 93 U1). -/
def State.withContents (s : State) (u : PowerOnContents s.cfg) : State :=
  { s with aPoly := u.aPoly, aInit := u.aInit, aXor := u.aXor, aRef := u.aRef, table := u.table, crc := u.crc }

/-- The states agree, or CONFIGURED = 0 and they agree in everything but the unspecified contents (R222). -/
def SameSpecified (s t : State) : Prop := t = s ∨ (s.configured = false ∧ ∃ u : PowerOnContents s.cfg, t = s.withContents u)

/-! ## A closed-form instance and the general one of the same width -/

/-- A W-bit value of an instance as the value of the same number of the general instance. -/
def toGeneral (c : Config) (v : BitVec c.w) : BitVec c.general.w := v.setWidth c.general.w

/-- The state of the general instance that holds the same values as `s`: the widths agree, so nothing is cut off (R181). -/
def State.general (s : State) : State :=
  { cfg := s.cfg.general, sPoly := toGeneral s.cfg s.sPoly, sInit := toGeneral s.cfg s.sInit, sXor := toGeneral s.cfg s.sXor,
    sRefin := s.sRefin, sRefout := s.sRefout, configured := s.configured, aPoly := toGeneral s.cfg s.aPoly,
    aInit := toGeneral s.cfg s.aInit, aXor := toGeneral s.cfg s.aXor, aRef := s.aRef, table := s.table.map (toGeneral s.cfg),
    crc := s.crc.map (toGeneral s.cfg), pending := s.pending, responses := s.responses }

end Sys2Proof.Machine
end

