-- ==== Sys2Proof/Certificates/Slice0/Obligations.lean ====
section
/-! DEFINITION. The statements about the machine, for the provers. Where a statement has hypotheses, the theorem
`witness_<Name>` of Sys2Proof/Tests/Slice0.lean meets them. -/

open Sys2Proof Sys2Proof.Machine

/-! ## Encoding and decoding (30_encoding.md) -/

/-- R70: the four fields stand at bits 87:80, 79:72, 71:64 and 63:0 of the command word, when a word is made and when it is
taken apart. -/
def Obligations.CommandWordLayout : Prop :=
  (∀ f : Fields, (packWord f).toNat =
    f.op.toNat * 2 ^ 80 + f.ctx.toNat * 2 ^ 72 + f.sel.toNat * 2 ^ 64 + f.arg.toNat) ∧
  (∀ cw : CommandWord, (splitWord cw).op.toNat = cw.toNat / 2 ^ 80 ∧ (splitWord cw).ctx.toNat = cw.toNat / 2 ^ 72 % 256 ∧
    (splitWord cw).sel.toNat = cw.toNat / 2 ^ 64 % 256 ∧ (splitWord cw).arg.toNat = cw.toNat % 2 ^ 64)

/-- R71: status at bits 67:64 and data at bits 63:0 of the response word; the status field holds 0 for `OK` and otherwise the error
code that R190 gives; a W-bit result is zero-extended (every response but
that of STATUS carries a zero-extended W-bit value); the data of an error response and of a command without a result is 0. -/
def Obligations.ResponseWordLayout : Prop :=
  (∀ r : Response, r.word.toNat = r.status.code.toNat * 2 ^ 64 + r.data.toNat) ∧
  (Status.ok.code.toNat = 0 ∧ Status.errConfig.code.toNat = 1 ∧ Status.errRange.code.toNat = 2 ∧
    Status.errIllegal.code.toNat = 3 ∧ Status.errOperand.code.toNat = 4 ∧ Status.errNotconf.code.toNat = 5) ∧
  (∀ (cfg : Config) (v : BitVec cfg.w), (zext64 v).toNat = v.toNat) ∧
  (∀ (cw : CommandWord) (s t : State) (r : Response), execWord cw s = .next t → t.responses = s.responses ++ [r] →
    (r.status ≠ .ok → r.data = 0) ∧ (∀ i, decode cw = .instr i → hasResult i = false → r.data = 0) ∧
    (decode cw ≠ .instr .status → ∃ v : BitVec s.cfg.w, r.data = zext64 v))

/-- Decoding the encoding of a command gives the command back, with every operand at every value its field admits. -/
def Obligations.DecodeOfEncode : Prop := ∀ i : Instr, decode (encode i) = .instr i

/-- A word that decodes to a command is that command's encoding: no bit of a word is ignored (R78). -/
def Obligations.EncodeOfDecode : Prop := ∀ (cw : CommandWord) (i : Instr), decode cw = .instr i → encode i = cw

/-- Fourteen words of the programs of 95_test_vectors.md section 3 decode to the commands they stand for, or to none; and the word
of TABLE 256, a row of its section 2.7, is an operand error (30_encoding.md R74). -/
def Obligations.SampleWordsDecode : Prop :=
  decode 0x0100000000000000000000#88 = .instr .status ∧
  decode 0x1000000000000004C11DB7#88 = .instr (.setpoly 0x04C11DB7) ∧
  decode 0x11000000000000FFFFFFFF#88 = .instr (.setinit 0xFFFFFFFF) ∧
  decode 0x1200000000000000000000#88 = .instr (.setxor 0) ∧
  decode 0x1300000000000000000002#88 = .instr (.setref false true) ∧
  decode 0x1400000000000000000000#88 = .instr .build ∧
  decode 0x2001000000000000000041#88 = .instr (.update 1 0x41) ∧
  decode 0x2100237979793332317878#88 = .instr (.updatew 0 2 3 0x7979793332317878) ∧
  decode 0x2201000000000000000000#88 = .instr (.reset 1) ∧
  decode 0x2300000000000000000000#88 = .instr (.value 0) ∧
  decode 0x24010000000000E72EDCCA#88 = .instr (.seed 1 0xE72EDCCA) ∧
  decode 0x25000000000000000000FF#88 = .instr (.table 0xFF) ∧
  decode 0x3000000000000000001021#88 = .instr (.reflect 0x1021) ∧
  decode 0x2500000000000000000100#88 = .operand ∧
  decode 0x7F00000000000000000000#88 = .illegal

/-- R77, R196: every word whose `op` is not one of the 13 opcodes responds `ERR_ILLEGAL` and changes nothing, whatever the other
80 bits hold; there are 243 such `op` values, the all-zero and the all-ones word among them; and no other word is illegal. -/
def Obligations.IllegalOpcodes : Prop :=
  (∀ (s : State) (cw : CommandWord), legalOp (cw.extractLsb' 80 8) = false →
    execWord cw s = .next { s with responses := s.responses ++ [⟨.errIllegal, 0⟩] }) ∧
  (∀ cw : CommandWord, decode cw = .illegal ↔ legalOp (cw.extractLsb' 80 8) = false) ∧
  ((List.range 256).filter fun n => legalOp (BitVec.ofNat 8 n) == false).length = 243 ∧
  decode 0 = .illegal ∧ decode (BitVec.allOnes 88) = .illegal

/-- R78, R194: a legal `op` with a field that its format does not allow responds `ERR_OPERAND` and changes nothing; and a word
whose fields are allowed is exactly the encoding of a well-formed command, so no reserved bit is ignored and no operand cut. -/
def Obligations.OperandErrors : Prop :=
  (∀ (s : State) (cw : CommandWord), legalOp (splitWord cw).op = true → fieldsAllowed s.cfg (splitWord cw) = false →
    execWord cw s = .next { s with responses := s.responses ++ [⟨.errOperand, 0⟩] }) ∧
  (∀ (cfg : Config) (cw : CommandWord), fieldsAllowed cfg (splitWord cw) = true →
    ∃ i, decode cw = .instr i ∧ i.wellFormed cfg = true ∧ encode i = cw)

/-! ## The whole machine -/

/-- R73, R198: every word is answered, the first check that fails, in the fixed order, decides the status, and a failing
command changes no state. -/
def Obligations.CheckOrder : Prop :=
  ∀ (s : State) (cw : CommandWord), ∃ t d, execWord cw s = .next t ∧
    t.responses = s.responses ++ [⟨expectedStatus s cw, d⟩] ∧
    (expectedStatus s cw ≠ .ok → t = { s with responses := s.responses ++ [⟨expectedStatus s cw, 0⟩] })

/-- R199: the status is a function of the command word, of W, NCTX and the closed-form option, and of CONFIGURED, S_REFIN and
S_REFOUT (on a closed-form instance also S_POLY) only. -/
def Obligations.StatusIsDetermined : Prop :=
  ∀ (cw : CommandWord) (s t : State), s.cfg.w = t.cfg.w → s.cfg.nctx = t.cfg.nctx → s.cfg.closedForm = t.cfg.closedForm →
    s.configured = t.configured → s.sRefin = t.sRefin → s.sRefout = t.sRefout →
    (s.cfg.closedForm = true → s.sPoly.toNat = t.sPoly.toNat) →
    ∃ st s' t' d e, execWord cw s = .next s' ∧ s'.responses = s.responses ++ [⟨st, d⟩] ∧
      execWord cw t = .next t' ∧ t'.responses = t.responses ++ [⟨st, e⟩]

/-- R197: a command word that is answered with an error writes no state. -/
def Obligations.ErrorsWriteNothing : Prop :=
  ∀ (cw : CommandWord) (s t : State) (st : Status) (d : Data), execWord cw s = .next t →
    t.responses = s.responses ++ [⟨st, d⟩] → st ≠ .ok → t = { s with responses := s.responses ++ [⟨st, 0⟩] }

/-- R81, R4: every command word in every state has a next state and exactly one response; the position advances by one,
whatever the status, and the command decides nothing about which word comes next. -/
def Obligations.EveryStepAnswers : Prop :=
  ∀ (s : State) (cw : CommandWord) (rest : List CommandWord), s.pending = cw :: rest →
    ∃ t r, step s = .next t ∧ t.pending = rest ∧ t.responses = s.responses ++ [r] ∧ position t = position s + 1

/-- When the next word decodes to a command, step is exec of that command on the state that has accepted the word. With no word
presented the state is held: the model's choice (assumption 4). -/
def Obligations.StepRunsDecodedCommand : Prop :=
  (∀ s : State, s.pending = [] → step s = .next s) ∧
  (∀ (s : State) (cw : CommandWord) (rest : List CommandWord) (i : Instr), s.pending = cw :: rest → decode cw = .instr i →
    step s = exec i { s with pending := rest }) ∧
  (∀ (s : State) (nbits w : Nat) (i : Instr), decodeTableWord nbits w = some i → step (s.withFetchWord nbits w) = exec i s)

/-- The parameters of the instance never change. -/
def Obligations.ParametersFixed : Prop := ∀ s t : State, step s = .next t → t.cfg = s.cfg

/-- R39: the write matrix. A command that responds `OK` changes at most the state its row marks; one that responds otherwise
changes nothing. -/
def Obligations.WriteMatrix : Prop :=
  ∀ (i : Instr) (s t : State), exec i s = .next t →
    (∃ e, e ≠ .ok ∧ t = { s with responses := s.responses ++ [⟨e, 0⟩] }) ∨
    (∃ u d, writesOnly s u i ∧ t = { u with responses := u.responses ++ [⟨.ok, d⟩] })

/-- R24, R195: CONFIGURED, once 1, stays 1; it becomes 1 only by a successful BUILD; while it is 0 every command that needs a
built engine is refused with `ERR_NOTCONF`; and that status is given in no other case. -/
def Obligations.ConfiguredFlag : Prop :=
  (∀ s t : State, step s = .next t → s.configured = true → t.configured = true) ∧
  (∀ s t : State, step s = .next t → s.configured = false → t.configured = true →
    ∃ cw rest, s.pending = cw :: rest ∧ decode cw = .instr .build ∧ stagedRefused s = false) ∧
  (∀ (i : Instr) (s : State), s.configured = false → needsConfigured (opcode i) = true → i.wellFormed s.cfg = true →
    exec i s = .next { s with responses := s.responses ++ [⟨.errNotconf, 0⟩] }) ∧
  (∀ (i : Instr) (s t : State) (d : Data), exec i s = .next t → t.responses = s.responses ++ [⟨.errNotconf, d⟩] →
    s.configured = false ∧ needsConfigured (opcode i) = true)

/-- R25, R53: the active parameter set is written, together with the table of that set, by a successful BUILD and by nothing else:
every other step leaves all of them, and CONFIGURED, as they were. -/
def Obligations.ActiveSetOnlyByBuild : Prop :=
  ∀ (s t : State) (cw : CommandWord) (rest : List CommandWord), s.pending = cw :: rest → step s = .next t →
    (decode cw = .instr .build ∧ stagedRefused s = false ∧ t =
      { s with configured := true, aPoly := s.sPoly, aInit := s.sInit, aXor := s.sXor, aRef := s.sRefin,
               table := buildTable s.sRefin s.sPoly, crc := Vector.replicate s.cfg.nctx s.sInit,
               pending := rest, responses := s.responses ++ [⟨.ok, 0⟩] }) ∨
    (¬ (decode cw = .instr .build ∧ stagedRefused s = false) ∧ ∃ p i x a b C R, t =
      { s with sPoly := p, sInit := i, sXor := x, sRefin := a, sRefout := b, crc := C, pending := rest, responses := R })

/-- R28: the table invariant of a built engine is kept by every step, from every state that has it. -/
def Obligations.EngineInvariantKept : Prop := ∀ s t : State, s.Inv → step s = .next t → t.Inv

/-- The invariant holds right after power-on reset of every instance, whatever the unspecified contents; and `State.reset` is
such a state, of the instance the model chose (assumptions 1 and 2). -/
def Obligations.EngineInvariantAtReset : Prop :=
  (∀ (cfg : Config) (u : PowerOnContents cfg), (State.powerOn cfg u).Inv) ∧ State.reset.Inv ∧
  ∃ u, State.reset = State.powerOn Config.suggested u

/-- R222: the unspecified power-on contents reach no response. States that agree but for them stay so in every step, with the
same responses; and all runs from power-on that differ only in them respond alike. -/
def Obligations.PowerOnContentsUnobservable : Prop :=
  (∀ s t : State, SameSpecified s t →
    ∃ s' t', step s = .next s' ∧ step t = .next t' ∧ SameSpecified s' t' ∧ t'.responses = s'.responses) ∧
  (∀ (cfg : Config) (u v : PowerOnContents cfg) (cws : List CommandWord) (k : Nat),
    ∃ s t, Sys2Proof.core.run k { State.powerOn cfg u with pending := cws } = .next s ∧
      Sys2Proof.core.run k { State.powerOn cfg v with pending := cws } = .next t ∧ s.responses = t.responses)

/-- R30: a command that addresses context `c` changes no other context's register, and its response and effect do not depend on
one: with another value in `CRC[d]`, `d ≠ c`, it does the same and leaves that value. Only a successful BUILD changes more than
one register, and it sets every one to the new initializer. -/
def Obligations.RegisterExclusivity : Prop :=
  (∀ (i : Instr) (c : BitVec 8) (s t : State) (d : Nat) (hd : d < s.cfg.nctx) (v : BitVec s.cfg.w), addressed i = some c →
    c.toNat ≠ d → exec i s = .next t →
    crcData t d = crcData s d ∧
    ∃ t', exec i { s with crc := s.crc.set d v hd } = .next t' ∧ t'.responses = t.responses ∧
      crcData t' d = some (zext64 v) ∧ ∀ e, e ≠ d → crcData t' e = crcData t e) ∧
  (∀ (i : Instr) (s t : State) (d e : Nat), exec i s = .next t → d ≠ e → crcData t d ≠ crcData s d →
    crcData t e ≠ crcData s e → i = .build ∧ stagedRefused s = false) ∧
  (∀ s t : State, exec .build s = .next t → stagedRefused s = false →
    ∀ c < s.cfg.nctx, crcData t c = some (zext64 t.aInit) ∧ zext64 t.aInit = zext64 s.sInit)

/-- R157: no sequence of commands addressed to context `a` changes `CRC[b]` or what `VALUE b` answers, `b ≠ a`. -/
def Obligations.CloneIndependence : Prop :=
  ∀ (cmds : List Instr) (a b : BitVec 8) (s t : State), (∀ i ∈ cmds, addressed i = some a) → b ≠ a →
    execAll cmds s = .next t →
    crcData t b.toNat = crcData s b.toNat ∧
    ∃ r s' t', exec (.value b) s = .next s' ∧ s'.responses = s.responses ++ [r] ∧
      exec (.value b) t = .next t' ∧ t'.responses = t.responses ++ [r]

/-- R21, R22: only BUILD reads the staging registers: every other command answers the same and leaves the same registers,
whatever they hold. -/
def Obligations.StagingReadByBuildOnly : Prop :=
  ∀ (i : Instr) (s t : State) (p n x : BitVec s.cfg.w) (a b : Bool), i ≠ .build → exec i s = .next t →
    ∃ t', exec i { s with sPoly := p, sInit := n, sXor := x, sRefin := a, sRefout := b } = .next t' ∧
      t'.responses = t.responses ∧ t'.configured = t.configured ∧ t'.aRef = t.aRef ∧ ∀ c, crcData t' c = crcData t c

/-! ## Power-on reset (10_state.md R37, 70_reset_and_hazards.md R220, R223) -/

/-- R37: the staging registers and CONFIGURED are 0 after power-on reset, of every instance and whatever the contents that are
unspecified; the active set, the table and the running registers may hold anything: `powerOn` takes them as an argument, where R37
would have them absent (assumption 2). -/
def Obligations.PowerOnState : Prop :=
  ∀ (cfg : Config) (u : PowerOnContents cfg), (State.powerOn cfg u).sPoly = 0 ∧ (State.powerOn cfg u).sInit = 0 ∧
    (State.powerOn cfg u).sXor = 0 ∧ (State.powerOn cfg u).sRefin = false ∧ (State.powerOn cfg u).sRefout = false ∧
    (State.powerOn cfg u).configured = false ∧ (State.powerOn cfg u).aPoly = u.aPoly ∧ (State.powerOn cfg u).aInit = u.aInit ∧
    (State.powerOn cfg u).aXor = u.aXor ∧ (State.powerOn cfg u).aRef = u.aRef ∧ (State.powerOn cfg u).table = u.table ∧
    (State.powerOn cfg u).crc = u.crc

/-- R223: on an instance without the closed form, BUILD right after power-on succeeds, and then VALUE is `ONES_W` after every
message; on a closed-form instance that BUILD is refused (R183; the model's reading, assumption 6). -/
def Obligations.BuildAfterPowerOn : Prop :=
  (∀ (cfg : Config) (u : PowerOnContents cfg) (c : BitVec 8) (bytes : List Byte), cfg.closedForm = false →
    c.toNat < cfg.nctx →
    ∃ t t', execAll (.build :: updateCommands c bytes) (State.powerOn cfg u) = .next t ∧ t.configured = true ∧
      exec (.value c) t = .next t' ∧ t'.responses = t.responses ++ [⟨.ok, zext64 (BitVec.allOnes cfg.w)⟩]) ∧
  (∀ (cfg : Config) (u : PowerOnContents cfg), cfg.closedForm = true →
    exec .build (State.powerOn cfg u) = .next { State.powerOn cfg u with responses := [⟨.errConfig, 0⟩] })

/-! ## The commands: where each completes, where it is refused, and everything it leaves unchanged -/

/-- R100: SETPOLY. -/
def Obligations.SetpolyEffect : Prop :=
  (∀ (s : State) (imm : Data), imm.toNat < 2 ^ s.cfg.w → exec (.setpoly imm) s =
    .next { s with sPoly := BitVec.ofNat s.cfg.w imm.toNat, responses := s.responses ++ [⟨.ok, 0⟩] }) ∧
  (∀ (s : State) (arg : Data), execWord (packWord ⟨0x10#8, 0, 0, arg⟩) s = exec (.setpoly arg) s) ∧
  (∀ (s : State) (ctx sel : BitVec 8) (arg : Data), ctx ≠ 0 ∨ sel ≠ 0 ∨ 2 ^ s.cfg.w ≤ arg.toNat →
    execWord (packWord ⟨0x10#8, ctx, sel, arg⟩) s = .next { s with responses := s.responses ++ [⟨.errOperand, 0⟩] })

/-- R101: SETINIT. -/
def Obligations.SetinitEffect : Prop :=
  (∀ (s : State) (imm : Data), imm.toNat < 2 ^ s.cfg.w → exec (.setinit imm) s =
    .next { s with sInit := BitVec.ofNat s.cfg.w imm.toNat, responses := s.responses ++ [⟨.ok, 0⟩] }) ∧
  (∀ (s : State) (arg : Data), execWord (packWord ⟨0x11#8, 0, 0, arg⟩) s = exec (.setinit arg) s) ∧
  (∀ (s : State) (ctx sel : BitVec 8) (arg : Data), ctx ≠ 0 ∨ sel ≠ 0 ∨ 2 ^ s.cfg.w ≤ arg.toNat →
    execWord (packWord ⟨0x11#8, ctx, sel, arg⟩) s = .next { s with responses := s.responses ++ [⟨.errOperand, 0⟩] })

/-- R102: SETXOR. -/
def Obligations.SetxorEffect : Prop :=
  (∀ (s : State) (imm : Data), imm.toNat < 2 ^ s.cfg.w → exec (.setxor imm) s =
    .next { s with sXor := BitVec.ofNat s.cfg.w imm.toNat, responses := s.responses ++ [⟨.ok, 0⟩] }) ∧
  (∀ (s : State) (arg : Data), execWord (packWord ⟨0x12#8, 0, 0, arg⟩) s = exec (.setxor arg) s) ∧
  (∀ (s : State) (ctx sel : BitVec 8) (arg : Data), ctx ≠ 0 ∨ sel ≠ 0 ∨ 2 ^ s.cfg.w ≤ arg.toNat →
    execWord (packWord ⟨0x12#8, ctx, sel, arg⟩) s = .next { s with responses := s.responses ++ [⟨.errOperand, 0⟩] })

/-- R103: SETREF; all four combinations are accepted. -/
def Obligations.SetrefEffect : Prop :=
  (∀ (s : State) (rin rout : Bool), exec (.setref rin rout) s =
    .next { s with sRefin := rin, sRefout := rout, responses := s.responses ++ [⟨.ok, 0⟩] }) ∧
  (∀ (s : State) (arg : Data), arg.toNat < 4 →
    execWord (packWord ⟨0x13#8, 0, 0, arg⟩) s = exec (.setref (arg.toNat % 2 == 1) (arg.toNat / 2 == 1)) s) ∧
  (∀ (s : State) (ctx sel : BitVec 8) (arg : Data), ctx ≠ 0 ∨ sel ≠ 0 ∨ 4 ≤ arg.toNat →
    execWord (packWord ⟨0x13#8, ctx, sel, arg⟩) s = .next { s with responses := s.responses ++ [⟨.errOperand, 0⟩] })

/-- R104, R108, R111: BUILD on a staged configuration that it accepts, and on one that it refuses. It holds in every state, so
also while an engine exists. -/
def Obligations.BuildEffect : Prop :=
  (∀ s : State, s.sRefin = s.sRefout → (s.cfg.closedForm = true → s.sRefin = true ∧ s.sPoly.toNat = 0x1021) → exec .build s =
    .next { s with
      configured := true, aPoly := s.sPoly, aInit := s.sInit, aXor := s.sXor, aRef := s.sRefin
      table := Vector.ofFn fun i : Fin 256 =>
        if s.sRefin then tabRef s.sPoly (BitVec.ofNat 8 i.val) else tabNonref s.sPoly (BitVec.ofNat 8 i.val)
      crc := Vector.ofFn fun _ => s.sInit
      responses := s.responses ++ [⟨.ok, 0⟩] }) ∧
  (∀ s : State, s.sRefin ≠ s.sRefout ∨ (s.cfg.closedForm = true ∧ ¬ (s.sRefin = true ∧ s.sPoly.toNat = 0x1021)) →
    exec .build s = .next { s with responses := s.responses ++ [⟨.errConfig, 0⟩] }) ∧
  (∀ s : State, execWord (packWord ⟨0x14#8, 0, 0, 0⟩) s = exec .build s) ∧
  (∀ (s : State) (ctx sel : BitVec 8) (arg : Data), ctx ≠ 0 ∨ sel ≠ 0 ∨ arg ≠ 0 →
    execWord (packWord ⟨0x14#8, ctx, sel, arg⟩) s = .next { s with responses := s.responses ++ [⟨.errOperand, 0⟩] })

/-- R105, R192: BUILD with unequal reflection flags answers `ERR_CONFIG` and writes nothing, whether or not an engine exists; on
a closed-form instance so does BUILD of another configuration than the fixed one; nothing else gives that status. -/
def Obligations.BuildRefusals : Prop :=
  (∀ s : State, s.sRefin ≠ s.sRefout → exec .build s = .next { s with responses := s.responses ++ [⟨.errConfig, 0⟩] }) ∧
  (∀ s : State, s.cfg.closedForm = true → ¬ (s.sPoly.toNat = 0x1021 ∧ s.sRefin = true ∧ s.sRefout = true) →
    exec .build s = .next { s with responses := s.responses ++ [⟨.errConfig, 0⟩] }) ∧
  (∀ (cw : CommandWord) (s t : State) (d : Data), execWord cw s = .next t → t.responses = s.responses ++ [⟨.errConfig, d⟩] →
    decode cw = .instr .build ∧ (s.sRefin ≠ s.sRefout ∨
      (s.cfg.closedForm = true ∧ ¬ (s.sPoly.toNat = 0x1021 ∧ s.sRefin = true ∧ s.sRefout = true))))

/-- R124: UPDATE. -/
def Obligations.UpdateEffect : Prop :=
  (∀ (s : State) (c : BitVec 8) (b : Byte) (h : c.toNat < s.cfg.nctx), s.configured = true → exec (.update c b) s =
    .next { s with crc := s.crc.set c.toNat (upd s.aRef (s.crc[c.toNat]'h) b s.table) h,
                   responses := s.responses ++ [⟨.ok, 0⟩] }) ∧
  (∀ (s : State) (ctx : BitVec 8) (b : Byte), execWord (packWord ⟨0x20#8, ctx, 0, BitVec.ofNat 64 b.toNat⟩) s =
    exec (.update ctx b) s) ∧
  (∀ (s : State) (ctx sel : BitVec 8) (arg : Data), s.cfg.nctx ≤ ctx.toNat ∨ sel ≠ 0 ∨ 256 ≤ arg.toNat →
    execWord (packWord ⟨0x20#8, ctx, sel, arg⟩) s = .next { s with responses := s.responses ++ [⟨.errOperand, 0⟩] }) ∧
  (∀ (s : State) (c : BitVec 8) (b : Byte), c.toNat < s.cfg.nctx → s.configured = false → exec (.update c b) s =
    .next { s with responses := s.responses ++ [⟨.errNotconf, 0⟩] })

/-- R126: UPDATEW. A range inside the buffer is folded in ascending order; an empty one changes nothing, also at the end of the
buffer (the spec's own reading, R127); one byte is what UPDATE does with it; any other range is refused before the first byte. -/
def Obligations.UpdatewEffect : Prop :=
  (∀ (s : State) (c : BitVec 8) (o n : BitVec 4) (buf : Data) (h : c.toNat < s.cfg.nctx), s.configured = true →
    o.toNat + n.toNat ≤ 8 → exec (.updatew c o n buf) s =
    .next { s with crc := s.crc.set c.toNat
                     (fold s.aRef (s.crc[c.toNat]'h) ((List.range' o.toNat n.toNat).map (lane buf)) s.table) h,
                   responses := s.responses ++ [⟨.ok, 0⟩] }) ∧
  (∀ (s : State) (c : BitVec 8) (o : BitVec 4) (buf : Data), c.toNat < s.cfg.nctx → s.configured = true → o.toNat ≤ 8 →
    exec (.updatew c o 0 buf) s = .next { s with responses := s.responses ++ [⟨.ok, 0⟩] }) ∧
  (∀ (s : State) (c : BitVec 8) (o : BitVec 4) (buf : Data), o.toNat < 8 →
    exec (.updatew c o 1 buf) s = exec (.update c (lane buf o.toNat)) s) ∧
  (∀ (s : State) (c : BitVec 8) (o n : BitVec 4) (buf : Data), c.toNat < s.cfg.nctx → s.configured = true →
    8 < o.toNat + n.toNat → exec (.updatew c o n buf) s = .next { s with responses := s.responses ++ [⟨.errRange, 0⟩] }) ∧
  (∀ (s : State) (ctx sel : BitVec 8) (arg : Data), execWord (packWord ⟨0x21#8, ctx, sel, arg⟩) s =
    exec (.updatew ctx (BitVec.ofNat 4 (sel.toNat / 16)) (BitVec.ofNat 4 (sel.toNat % 16)) arg) s) ∧
  (∀ (s : State) (c : BitVec 8) (o n : BitVec 4) (buf : Data), s.cfg.nctx ≤ c.toNat → exec (.updatew c o n buf) s =
    .next { s with responses := s.responses ++ [⟨.errOperand, 0⟩] }) ∧
  (∀ (s : State) (c : BitVec 8) (o n : BitVec 4) (buf : Data), c.toNat < s.cfg.nctx → s.configured = false →
    exec (.updatew c o n buf) s = .next { s with responses := s.responses ++ [⟨.errNotconf, 0⟩] })

/-- R141: RESET restores the active initializer in its own context only. -/
def Obligations.ResetEffect : Prop :=
  (∀ (s : State) (c : BitVec 8) (h : c.toNat < s.cfg.nctx), s.configured = true → exec (.reset c) s =
    .next { s with crc := s.crc.set c.toNat s.aInit h, responses := s.responses ++ [⟨.ok, 0⟩] }) ∧
  (∀ (s : State) (ctx : BitVec 8), execWord (packWord ⟨0x22#8, ctx, 0, 0⟩) s = exec (.reset ctx) s) ∧
  (∀ (s : State) (ctx sel : BitVec 8) (arg : Data), s.cfg.nctx ≤ ctx.toNat ∨ sel ≠ 0 ∨ arg ≠ 0 →
    execWord (packWord ⟨0x22#8, ctx, sel, arg⟩) s = .next { s with responses := s.responses ++ [⟨.errOperand, 0⟩] }) ∧
  (∀ (s : State) (c : BitVec 8), c.toNat < s.cfg.nctx → s.configured = false → exec (.reset c) s =
    .next { s with responses := s.responses ++ [⟨.errNotconf, 0⟩] })

/-- R137: VALUE answers the finalized register, zero-extended, and writes nothing. -/
def Obligations.ValueEffect : Prop :=
  (∀ (s : State) (c : BitVec 8) (h : c.toNat < s.cfg.nctx), s.configured = true → exec (.value c) s =
    .next { s with responses := s.responses ++
      [⟨.ok, BitVec.ofNat 64 (fin s.aRef (s.crc[c.toNat]'h) s.aXor).toNat⟩] }) ∧
  (∀ (s : State) (ctx : BitVec 8), execWord (packWord ⟨0x23#8, ctx, 0, 0⟩) s = exec (.value ctx) s) ∧
  (∀ (s : State) (ctx sel : BitVec 8) (arg : Data), s.cfg.nctx ≤ ctx.toNat ∨ sel ≠ 0 ∨ arg ≠ 0 →
    execWord (packWord ⟨0x23#8, ctx, sel, arg⟩) s = .next { s with responses := s.responses ++ [⟨.errOperand, 0⟩] }) ∧
  (∀ (s : State) (c : BitVec 8), c.toNat < s.cfg.nctx → s.configured = false → exec (.value c) s =
    .next { s with responses := s.responses ++ [⟨.errNotconf, 0⟩] })

/-- R138: VALUE changes no state; a later VALUE answers the same when no command between the two writes `CRC[c]`, whatever the
commands; and reading the value mid-stream changes neither what the commands after it do nor what they answer. -/
def Obligations.ValueIsPureRead : Prop :=
  (∀ (s : State) (c : BitVec 8), c.toNat < s.cfg.nctx → s.configured = true →
    ∃ d, exec (.value c) s = .next { s with responses := s.responses ++ [⟨.ok, d⟩] } ∧
      ∀ (between : List Instr) (t : State), NoWriteTo c between { s with responses := s.responses ++ [⟨.ok, d⟩] } →
        execAll between { s with responses := s.responses ++ [⟨.ok, d⟩] } = .next t →
        exec (.value c) t = .next { t with responses := t.responses ++ [⟨.ok, d⟩] }) ∧
  (∀ (s t : State) (c : BitVec 8) (after : List Instr), execAll after s = .next t →
    ∃ r rs, t.responses = s.responses ++ rs ∧
      execAll (.value c :: after) s = .next { t with responses := s.responses ++ r :: rs })

/-- R139: SEED writes the raw register; A_INIT stays. -/
def Obligations.SeedEffect : Prop :=
  (∀ (s : State) (c : BitVec 8) (imm : Data) (h : c.toNat < s.cfg.nctx), imm.toNat < 2 ^ s.cfg.w → s.configured = true →
    exec (.seed c imm) s = .next { s with crc := s.crc.set c.toNat (BitVec.ofNat s.cfg.w imm.toNat) h,
                                          responses := s.responses ++ [⟨.ok, 0⟩] }) ∧
  (∀ (s : State) (ctx : BitVec 8) (arg : Data), execWord (packWord ⟨0x24#8, ctx, 0, arg⟩) s = exec (.seed ctx arg) s) ∧
  (∀ (s : State) (ctx sel : BitVec 8) (arg : Data), s.cfg.nctx ≤ ctx.toNat ∨ sel ≠ 0 ∨ 2 ^ s.cfg.w ≤ arg.toNat →
    execWord (packWord ⟨0x24#8, ctx, sel, arg⟩) s = .next { s with responses := s.responses ++ [⟨.errOperand, 0⟩] }) ∧
  (∀ (s : State) (c : BitVec 8) (imm : Data), c.toNat < s.cfg.nctx → imm.toNat < 2 ^ s.cfg.w → s.configured = false →
    exec (.seed c imm) s = .next { s with responses := s.responses ++ [⟨.errNotconf, 0⟩] })

/-- R150, R152: TABLE answers a copy of one entry and writes nothing; on an engine built by BUILD it answers the generator's
entry, and `TABLE 0` answers 0. -/
def Obligations.TableEffect : Prop :=
  (∀ (s : State) (i : BitVec 8), s.configured = true → exec (.table i) s =
    .next { s with responses := s.responses ++ [⟨.ok, BitVec.ofNat 64 (readEntry s.table i).toNat⟩] }) ∧
  (∀ (s : State) (i : BitVec 8), s.Inv → s.configured = true → exec (.table i) s =
    .next { s with responses := s.responses ++ [⟨.ok, zext64 (tabEntry s.aRef s.aPoly i)⟩] }) ∧
  (∀ s : State, s.Inv → s.configured = true → exec (.table 0) s = .next { s with responses := s.responses ++ [⟨.ok, 0⟩] }) ∧
  (∀ (s : State) (i : BitVec 8), execWord (packWord ⟨0x25#8, 0, 0, BitVec.ofNat 64 i.toNat⟩) s = exec (.table i) s) ∧
  (∀ (s : State) (ctx sel : BitVec 8) (arg : Data), ctx ≠ 0 ∨ sel ≠ 0 ∨ 256 ≤ arg.toNat →
    execWord (packWord ⟨0x25#8, ctx, sel, arg⟩) s = .next { s with responses := s.responses ++ [⟨.errOperand, 0⟩] }) ∧
  (∀ (s : State) (i : BitVec 8), s.configured = false → exec (.table i) s =
    .next { s with responses := s.responses ++ [⟨.errNotconf, 0⟩] })

/-- R153, R32: STATUS answers the status word and writes nothing, in every state. -/
def Obligations.StatusEffect : Prop :=
  (∀ s : State, exec .status s = .next { s with responses := s.responses ++ [⟨.ok, BitVec.ofNat 64
    ((if s.configured then 1 else 0) + (if s.configured ∧ s.aRef then 2 else 0) +
      4 * (if s.cfg.w = 16 then 0 else if s.cfg.w = 32 then 1 else 2) + 256 * (s.cfg.nctx - 1))⟩] }) ∧
  (∀ s : State, execWord (packWord ⟨0x01#8, 0, 0, 0⟩) s = exec .status s) ∧
  (∀ (s : State) (ctx sel : BitVec 8) (arg : Data), ctx ≠ 0 ∨ sel ≠ 0 ∨ arg ≠ 0 →
    execWord (packWord ⟨0x01#8, ctx, sel, arg⟩) s = .next { s with responses := s.responses ++ [⟨.errOperand, 0⟩] })

/-- R172: REFLECT answers its operand reversed at width W, with or without a built engine, and writes nothing. -/
def Obligations.ReflectEffect : Prop :=
  (∀ (s : State) (imm : Data), imm.toNat < 2 ^ s.cfg.w → exec (.reflect imm) s =
    .next { s with responses := s.responses ++ [⟨.ok, BitVec.ofNat 64 (reflect (BitVec.ofNat s.cfg.w imm.toNat)).toNat⟩] }) ∧
  (∀ (s : State) (arg : Data), execWord (packWord ⟨0x30#8, 0, 0, arg⟩) s = exec (.reflect arg) s) ∧
  (∀ (s : State) (ctx sel : BitVec 8) (arg : Data), ctx ≠ 0 ∨ sel ≠ 0 ∨ 2 ^ s.cfg.w ≤ arg.toNat →
    execWord (packWord ⟨0x30#8, ctx, sel, arg⟩) s = .next { s with responses := s.responses ++ [⟨.errOperand, 0⟩] })

/-! ## The table generator (40_table_generator.md) -/

/-- R106, R107: a table entry is 8 conditional shift-and-XOR steps, in the arithmetic of unsigned numbers. -/
def Obligations.EntryArithmetic : Prop :=
  (∀ (w : Nat) (poly : BitVec w) (i : Byte), 8 ≤ w → (tabNonref poly i).toNat =
    (fun v => if v / 2 ^ (w - 1) % 2 = 1 then (v * 2 % 2 ^ w) ^^^ poly.toNat else v * 2 % 2 ^ w)^[8]
      (i.toNat * 2 ^ (w - 8) % 2 ^ w)) ∧
  (∀ (w : Nat) (poly : BitVec w) (i : Byte), 8 ≤ w → (tabRef poly i).toNat =
    (fun v => if v % 2 = 1 then (v / 2) ^^^ (reflect poly).toNat else v / 2)^[8] i.toNat)

/-- R114: the table is linear in the index in both modes; the reflected table is the mirror of the non-reflected one; and a
built table depends on the polynomial and the mode only. -/
def Obligations.TableLaws : Prop :=
  (∀ (w : Nat) (ref : Bool) (poly : BitVec w) (a b : Byte),
    tabEntry ref poly (a ^^^ b) = tabEntry ref poly a ^^^ tabEntry ref poly b) ∧
  (∀ (w : Nat) (poly : BitVec w) (i : Byte), 8 ≤ w → tabRef poly i = reflect (tabNonref poly (reflect i))) ∧
  (∀ (s t u : State) (n x : BitVec s.cfg.w), exec .build s = .next t → exec .build { s with sInit := n, sXor := x } = .next u →
    s.sRefin = s.sRefout → (s.cfg.closedForm = true → s.sRefin = true ∧ s.sPoly.toNat = 0x1021) →
    ∀ i, zext64 (readEntry t.table i) = zext64 (readEntry u.table i))

/-- R112: the corner cases of the polynomial. -/
def Obligations.TableCorners : Prop :=
  (∀ (w : Nat) (ref : Bool) (i : Byte), 8 ≤ w → tabEntry ref (0 : BitVec w) i = 0) ∧
  (∀ (w : Nat) (ref : Bool) (r : BitVec w) (b : Byte), 8 ≤ w →
    upd ref r b (buildTable ref 0) = if ref then r >>> 8 else r <<< 8) ∧
  (∀ (w : Nat) (ref : Bool) (poly : BitVec w), tabEntry ref poly 0 = 0) ∧
  (∀ (w : Nat) (poly : BitVec w), 8 ≤ w → tabNonref poly 1 = poly) ∧
  (∀ (w : Nat) (poly : BitVec w), 8 ≤ w → tabRef poly 0x80 = reflect poly)

/-! ## The update engine (41_update_engine.md) -/

/-- R55, R56: lane `k` of the buffer is `arg[8k+7 : 8k]`, and a range of lanes is taken in ascending order. -/
def Obligations.LaneNumbering : Prop :=
  (∀ (buf : Data) (k : Nat), (lane buf k).toNat = buf.toNat / 2 ^ (8 * k) % 256) ∧
  (∀ (buf : Data) (o n : Nat), lanes buf o n = (List.range' o n).map (lane buf))

/-- R120, R121, R122, R123: the per-byte updates in the arithmetic of unsigned numbers, the choice between them, the fold. -/
def Obligations.UpdateArithmetic : Prop :=
  (∀ (w : Nat) (r : BitVec w) (b : Byte) (T : Table w), 8 ≤ w → (updRef r b T).toNat =
    (r.toNat / 2 ^ 8) ^^^ (readEntry T (BitVec.ofNat 8 ((r.toNat ^^^ b.toNat) % 256))).toNat) ∧
  (∀ (w : Nat) (r : BitVec w) (b : Byte) (T : Table w), 8 ≤ w → (updNonref r b T).toNat =
    (r.toNat * 2 ^ 8 % 2 ^ w) ^^^ (readEntry T (BitVec.ofNat 8 ((r.toNat / 2 ^ (w - 8)) ^^^ b.toNat))).toNat) ∧
  (∀ (w : Nat) (r : BitVec w) (b : Byte) (T : Table w), upd true r b T = updRef r b T ∧ upd false r b T = updNonref r b T) ∧
  (∀ (w : Nat) (ref : Bool) (r : BitVec w) (bs : List Byte) (T : Table w),
    fold ref r bs T = bs.foldl (fun v b => upd ref v b T) r)

/-- R129 (a), (b), (c): a table update is the bit-serial division of the byte, in both modes; and the reflected fold is the
mirror of the non-reflected one. -/
def Obligations.UpdateIsBitSerialDivision : Prop :=
  (∀ (w : Nat) (poly r : BitVec w) (b : Byte), 8 ≤ w → updRef r b (buildTable true poly) =
    (fun v => if v.getLsbD 0 then (v >>> 1) ^^^ reflect poly else v >>> 1)^[8] (r ^^^ b.setWidth w)) ∧
  (∀ (w : Nat) (poly r : BitVec w) (b : Byte), 8 ≤ w → updNonref r b (buildTable false poly) =
    (fun v => if v.getLsbD (w - 1) then (v <<< 1) ^^^ poly else v <<< 1)^[8] (r ^^^ (b.setWidth w <<< (w - 8)))) ∧
  (∀ (w : Nat) (poly r : BitVec w) (bs : List Byte), 8 ≤ w → fold true r bs (buildTable true poly) =
    reflect (fold false (reflect r) (bs.map reflect) (buildTable false poly)))

/-- R128: chunking equivalence. The fold over a concatenation is the fold of the folds; and whatever commands deliver a
message's bytes to a context, in whatever pieces, with whatever commands in between that do not reset, seed or rebuild it, the
register and the VALUE are those of the whole message. -/
def Obligations.ChunkingEquivalence : Prop :=
  (∀ (w : Nat) (ref : Bool) (r : BitVec w) (x y : List Byte) (T : Table w),
    fold ref r (x ++ y) T = fold ref (fold ref r x T) y T) ∧
  (∀ (cmds : List Instr) (c : BitVec 8) (s t : State) (h : c.toNat < s.cfg.nctx), s.configured = true →
    (∀ i ∈ cmds, interrupts c i = false) → execAll cmds s = .next t →
    crcData t c.toNat = some (zext64 (fold s.aRef (s.crc[c.toNat]'h) (cmds.flatMap (delivered c)) s.table)) ∧
    ∃ t', exec (.value c) t = .next t' ∧ t'.responses = t.responses ++ [⟨.ok,
      zext64 (fin s.aRef (fold s.aRef (s.crc[c.toNat]'h) (cmds.flatMap (delivered c)) s.table) s.aXor)⟩])

/-! ## Finalization, seeding, reset (42_finalize_reset.md) -/

/-- R135: the finalization function; `NOT_W(r)` is `r XOR ONES_W`. -/
def Obligations.FinalizationFunction : Prop :=
  ∀ (w : Nat) (r x : BitVec w), fin true r x = r ^^^ x ∧ fin false r x = (r ^^^ BitVec.allOnes w) ^^^ x

/-- R144: finalization is its own inverse and a bijection; the complement is the complement of the constant; a difference in the
register appears unchanged in the value; the result fits W bits. -/
def Obligations.FinalizationLaws : Prop :=
  (∀ (w : Nat) (ref : Bool) (x : BitVec w), Function.Bijective (fun r => fin ref r x) ∧ ∀ r, fin ref (fin ref r x) x = r) ∧
  (∀ (w : Nat) (r x : BitVec w), fin false r x = fin true r (x ^^^ BitVec.allOnes w)) ∧
  (∀ (w : Nat) (ref : Bool) (r d x : BitVec w), fin ref (r ^^^ d) x = fin ref r x ^^^ d) ∧
  (∀ (cfg : Config) (ref : Bool) (r x : BitVec cfg.w), (zext64 (fin ref r x)).toNat < 2 ^ cfg.w)

/-- R142, R143: RESET is idempotent, and VALUE right after RESET, or right after the BUILD that created the engine, is that of
the empty message. -/
def Obligations.ResetAndEmptyMessage : Prop :=
  (∀ (s t u : State) (c : BitVec 8), exec (.reset c) s = .next t → exec (.reset c) t = .next u →
    ∃ r, u = { t with responses := t.responses ++ [r] }) ∧
  (∀ (s : State) (c : BitVec 8), c.toNat < s.cfg.nctx → s.configured = true →
    ∃ t, execAll [.reset c, .value c] s = .next t ∧
      t.responses = s.responses ++ [⟨.ok, 0⟩, ⟨.ok, zext64 (fin s.aRef s.aInit s.aXor)⟩]) ∧
  (∀ (s : State) (c : BitVec 8), c.toNat < s.cfg.nctx → stagedRefused s = false →
    ∃ t, execAll [.build, .value c] s = .next t ∧
      t.responses = s.responses ++ [⟨.ok, 0⟩, ⟨.ok, zext64 (fin s.sRefin s.sInit s.sXor)⟩])

/-- R140: the host copies the running state of context `a` to context `b` by undoing the transform of the value it read. -/
def Obligations.CopyRunningState : Prop :=
  ∀ (s : State) (a b : BitVec 8) (ha : a.toNat < s.cfg.nctx) (hb : b.toNat < s.cfg.nctx) (v : BitVec s.cfg.w),
    s.configured = true → exec (.value a) s = .next { s with responses := s.responses ++ [⟨.ok, zext64 v⟩] } →
    exec (.seed b (zext64 (if s.aRef then v ^^^ s.aXor else ~~~(v ^^^ s.aXor)))) s =
      .next { s with crc := s.crc.set b.toNat (s.crc[a.toNat]'ha) hb, responses := s.responses ++ [⟨.ok, 0⟩] }

/-! ## Bit reversal (45_reflect.md) -/

/-- R170: bit `i` of the reversed value is bit `N-1-i`, and the value is the sum of the reversed bits' weights. The formula is the
spec's own reading of "reverses the bit order". -/
def Obligations.ReflectBits : Prop :=
  (∀ (N : Nat) (x : BitVec N) (i : Nat), i < N → (reflect x).getLsbD i = x.getLsbD (N - 1 - i)) ∧
  (∀ (N : Nat) (x : BitVec N), (reflect x).toNat =
    ((List.range N).map fun i => (x.getLsbD i).toNat * 2 ^ (N - 1 - i)).sum)

/-- R171: the laws of bit reversal. -/
def Obligations.ReflectLaws : Prop :=
  (∀ (N : Nat) (x : BitVec N), reflect (reflect x) = x) ∧
  (∀ N : Nat, reflect (0 : BitVec N) = 0 ∧ reflect (BitVec.allOnes N) = BitVec.allOnes N ∧
    Function.Bijective (reflect : BitVec N → BitVec N)) ∧
  (∀ (N : Nat) (a b : BitVec N), reflect (a ^^^ b) = reflect a ^^^ reflect b ∧ reflect (a &&& b) = reflect a &&& reflect b ∧
    reflect (a ||| b) = reflect a ||| reflect b) ∧
  (∀ (N : Nat) (x : BitVec N), ((List.range N).countP fun i => (reflect x).getLsbD i) = (List.range N).countP fun i => x.getLsbD i) ∧
  (∀ (N : Nat) (x : BitVec N) (k : Nat), reflect (x <<< k) = reflect x >>> k) ∧
  (∀ (N : Nat) (x : BitVec N), reflect x = x ↔ ∀ i < N, x.getLsbD i = x.getLsbD (N - 1 - i))

/-! ## The closed-form variant (46_ccitt16.md) -/

/-- R182: the closed form equals the table update for the reflected polynomial 0x1021, for every register and byte. The spec marks
the formula as general knowledge and the equation as derived. -/
def Obligations.ClosedFormEqualsTable : Prop :=
  ∀ (r : BitVec 16) (b : Byte), closedUpdate r b = updRef r b (buildTable true 0x1021)

/-- R183: a closed-form instance builds the reflected polynomial 0x1021, with every initializer and final XOR, and refuses every
other staged configuration with `ERR_CONFIG` and no change; its TABLE answers that polynomial's reflected entries; an instance
without the option builds every polynomial in both modes. -/
def Obligations.ClosedFormBuild : Prop :=
  (∀ s : State, s.cfg.closedForm = true → s.cfg.w = 16) ∧
  (∀ s : State, s.cfg.closedForm = true → s.sPoly.toNat = 0x1021 → s.sRefin = true → s.sRefout = true →
    ∃ t, exec .build s = .next t ∧ t.responses = s.responses ++ [⟨.ok, 0⟩] ∧ t.configured = true) ∧
  (∀ s : State, s.cfg.closedForm = true → ¬ (s.sPoly.toNat = 0x1021 ∧ s.sRefin = true ∧ s.sRefout = true) →
    exec .build s = .next { s with responses := s.responses ++ [⟨.errConfig, 0⟩] }) ∧
  (∀ (s : State) (i : BitVec 8), s.Inv → s.cfg.closedForm = true → s.configured = true → exec (.table i) s =
    .next { s with responses := s.responses ++ [⟨.ok, zext64 (tabRef (0x1021 : BitVec 16) i)⟩] }) ∧
  (∀ s : State, s.cfg.closedForm = false → s.sRefin = s.sRefout →
    ∃ t, exec .build s = .next t ∧ t.responses = s.responses ++ [⟨.ok, 0⟩] ∧ t.configured = true)

/-- R181: for every sequence of commands in which each BUILD stages the reflected polynomial 0x1021, a closed-form instance and
the general instance of the same width respond alike and reach the same state; both start alike from power-on. -/
def Obligations.ClosedFormInterchangeable : Prop :=
  (∀ (i : Instr) (s t : State), (i = .build → s.sPoly.toNat = 0x1021 ∧ s.sRefin = true ∧ s.sRefout = true) →
    exec i s = .next t → exec i s.general = .next t.general ∧ t.general.responses = t.responses) ∧
  (∀ (cfg : Config) (u : PowerOnContents cfg), ∃ u', (State.powerOn cfg u).general = State.powerOn cfg.general u')

/-! ## Serialisation (20_memory.md) -/

/-- R58: `ser_W` lists the W/8 bytes, least or most significant first, and `deser_W` is its inverse in both orders. R7: the order an
integration of an instance uses, to store and to read back, is the instance's `BYTE_ORDER`. -/
def Obligations.SerialRoundTrip : Prop :=
  (∀ (cfg : Config) (v : BitVec cfg.w) (k : Nat), k < cfg.w / 8 →
    (ser v .little)[k]? = some (BitVec.ofNat 8 (v.toNat / 2 ^ (8 * k)))) ∧
  (∀ (cfg : Config) (v : BitVec cfg.w) (o : ByteOrder), (ser v o).length = cfg.w / 8 ∧ deser cfg.w (ser v o) o = v) ∧
  (∀ (cfg : Config) (v : BitVec cfg.w), ser v .big = (ser v .little).reverse ∧ deserialise cfg (serialise cfg v) = v) ∧
  (∀ (cfg : Config) (v : BitVec cfg.w) (bytes : List Byte), serialise cfg v = ser v cfg.byteOrder ∧
    deserialise cfg bytes = deser cfg.w bytes cfg.byteOrder) ∧
  (∀ (cfg : Config) (bytes : List Byte), bytes.length = cfg.w / 8 →
    (deser cfg.w bytes .little).toNat = ((List.range bytes.length).map fun k => (bytes.getD k 0).toNat * 2 ^ (8 * k)).sum ∧
    (deser cfg.w bytes .big).toNat =
      ((List.range bytes.length).map fun k => (bytes.getD k 0).toNat * 2 ^ (8 * (bytes.length - 1 - k))).sum)

/-! ## Parameters, catalogue and pseudo-instructions (00_scope.md, 44_catalog.md) -/

/-- R5, R6, R8: exactly the instances with W in 16, 32, 64, NCTX in 1..256 and the closed form at W = 16 only are elaborated, and
an elaborated instance has the parameters asked for. -/
def Obligations.ElaborationLegal : Prop :=
  ∀ (width nctx : Nat) (order : ByteOrder) (closed : Bool) (init xorout : BitVec 16),
    ((∃ c, Config.elaborate width nctx order closed init xorout = some c) ↔
      (width = 16 ∨ width = 32 ∨ width = 64) ∧ (1 ≤ nctx ∧ nctx ≤ 256) ∧ (closed = true → width = 16)) ∧
    ∀ c, Config.elaborate width nctx order closed init xorout = some c → c.w = width ∧ c.nctx = nctx ∧
      c.closedForm = closed ∧ c.byteOrder = order ∧ c.ccitt16Init = init ∧ c.ccitt16Xorout = xorout

/-- R163: every value the source states is reproduced: from every state of an instance of the row's width, PRESET and then HASH
of the message on any context answer it, whatever ran before. The values are the source's; the parameter sets are R161's, which
the spec marks general knowledge (assumption 9). -/
def Obligations.StatedValuesReproduced : Prop :=
  ∀ (s : State) (c : BitVec 8) (v : StatedValue), v ∈ statedValues → v.preset.width = s.cfg.w → c.toNat < s.cfg.nctx →
    ∃ cmds t rs, expand s.cfg (.hash c v.message) = some cmds ∧ execAll (presetCommands v.preset ++ cmds) s = .next t ∧
      t.responses = s.responses ++ rs ++ [⟨.ok, v.value⟩]

/-- R164, R83: PRESET of a catalogue row on an instance of the row's width, closed form or not, completes its five commands and
installs the row's parameter set; on another width the assembler refuses it. R162: with the
final XOR it programs, the finalized value is the register XOR the catalogue's `xorout`, in both modes. The rows and their names
are the model's host-side data (assumptions 9 and 10). -/
def Obligations.PresetInstalls : Prop :=
  (∀ (s : State) (p : Preset), p ∈ catalog s.cfg → p.width = s.cfg.w →
    ∃ t, execAll (presetCommands p) s = .next t ∧ t.responses = s.responses ++ List.replicate 5 ⟨.ok, 0⟩ ∧
      t.configured = true ∧ zext64 t.aPoly = p.sPoly ∧ zext64 t.aInit = p.sInit ∧ zext64 t.aXor = p.sXor ∧ t.aRef = p.ref ∧
      ∀ c < s.cfg.nctx, crcData t c = some p.sInit) ∧
  (∀ (cfg : Config) (p : Preset), p ∈ catalog cfg →
    expand cfg (.preset p.name) = if p.width = cfg.w then some (presetCommands p) else none) ∧
  (∀ (w : Nat) (ref : Bool) (xorout : Data) (r : BitVec w), w ≤ 64 →
    fin ref r ((programmedXor w ref xorout).setWidth w) = r ^^^ xorout.setWidth w)

/-- R83, R156: HASH answers the value of the message, whatever its length (the last response is VALUE's); CLONE expands to RESET,
which gives its context a fresh register at the initializer; UPDATES expands to one UPDATE per byte, in order, and to nothing for the
empty sequence, and folds the bytes. -/
def Obligations.HashComputes : Prop :=
  (∀ (s : State) (c : BitVec 8) (bytes : List Byte), c.toNat < s.cfg.nctx → s.configured = true →
    ∃ cmds t, expand s.cfg (.hash c bytes) = some cmds ∧ execAll cmds s = .next t ∧
      t.responses = s.responses ++ List.replicate (bytes.length + 1) ⟨.ok, 0⟩ ++
        [⟨.ok, zext64 (fin s.aRef (fold s.aRef s.aInit bytes s.table) s.aXor)⟩]) ∧
  (∀ (cfg : Config) (c : BitVec 8) (bytes : List Byte), expand cfg (.clone c) = some [.reset c] ∧
    expand cfg (.updates c bytes) = some (bytes.map fun b => .update c b) ∧
    expand cfg (.hash c bytes) = some (.reset c :: (bytes.map fun b => .update c b) ++ [.value c])) ∧
  (∀ (s : State) (c : BitVec 8) (h : c.toNat < s.cfg.nctx), s.configured = true →
    ∃ cmds, expand s.cfg (.clone c) = some cmds ∧ execAll cmds s =
      .next { s with crc := s.crc.set c.toNat s.aInit h, responses := s.responses ++ [⟨.ok, 0⟩] }) ∧
  (∀ (s : State) (c : BitVec 8) (bytes : List Byte) (h : c.toNat < s.cfg.nctx), s.configured = true →
    ∃ cmds, expand s.cfg (.updates c bytes) = some cmds ∧ execAll cmds s =
      .next { s with crc := s.crc.set c.toNat (fold s.aRef (s.crc[c.toNat]'h) bytes s.table) h,
                     responses := s.responses ++ List.replicate bytes.length ⟨.ok, 0⟩ })
end

