-- ==== Sys2Proof/Laws/Bits.lean ====
section
/-! SUPPORT. The bits of a reversed value and of a zero-extended result (45_reflect.md R170, 30_encoding.md R71). -/

namespace Sys2Proof.Machine

/-- The terms below `k` set exactly the bits `N-1-i` with `i < k` and `x[i] = 1`. -/
theorem getLsbD_reflectTerms {N : Nat} (x : BitVec N) (k : Nat) (hk : k ≤ N) (j : Nat) (hj : j < N) :
    (reflectTerms x k).getLsbD j = (decide (N - 1 - j < k) && x.getLsbD (N - 1 - j)) := by
  induction k with
  | zero => simp [reflectTerms]
  | succ k ih =>
    rw [reflectTerms, BitVec.getLsbD_or, ih (by omega)]
    by_cases hx : N - 1 - j = k
    · subst hx
      have e : N - 1 - (N - 1 - j) = j := by omega
      split <;> simp_all
    · have : ¬ N - 1 - k = j := by omega
      have d : decide (N - 1 - j < k + 1) = decide (N - 1 - j < k) := by
        apply decide_eq_decide.2; omega
      rw [d]
      split <;> simp [BitVec.getLsbD_twoPow, this]

/-- Bit `j` of the reversed value is bit `N-1-j` (R170). -/
theorem getLsbD_reflect {N : Nat} (x : BitVec N) (j : Nat) (hj : j < N) : (reflect x).getLsbD j = x.getLsbD (N - 1 - j) := by
  rw [reflect, getLsbD_reflectTerms x N (Nat.le_refl N) j hj]
  have : N - 1 - j < N := by omega
  simp [this]

/-- Two values of one width are equal when their bits are. -/
theorem eq_of_bits {N : Nat} {x y : BitVec N} (h : ∀ j, j < N → x.getLsbD j = y.getLsbD j) : x = y :=
  BitVec.eq_of_getLsbD_eq h

/-- The result of a W-bit command carries the same number (R71). -/
theorem toNat_zext64 {w : Nat} (v : BitVec w) (h : w ≤ 64) : (zext64 v).toNat = v.toNat := by
  have := v.isLt
  have : v.toNat < 2 ^ 64 := Nat.lt_of_lt_of_le this (Nat.pow_le_pow_right (by decide) h)
  rw [zext64, BitVec.toNat_setWidth, Nat.mod_eq_of_lt this]

theorem zext64_inj {w : Nat} {u v : BitVec w} (h : w ≤ 64) : zext64 u = zext64 v ↔ u = v := by
  constructor
  · intro e
    apply BitVec.eq_of_toNat_eq
    rw [← toNat_zext64 u h, ← toNat_zext64 v h, e]
  · rintro rfl; rfl

end Sys2Proof.Machine
end

