-- ==== Sys2Proof/Laws/Config.lean ====
section
/-! SUPPORT. Bounds on the parameters of an instance (00_scope.md R5, R6). -/

namespace Sys2Proof

/-- W is one of 16, 32, 64 (R5). -/
theorem Config.w_cases (c : Config) : c.w = 16 ∨ c.w = 32 ∨ c.w = 64 := by
  rcases c with ⟨d, _, _, _, _⟩
  cases d <;> simp [Config.w, Datapath.bits]

theorem Config.le_w (c : Config) : 16 ≤ c.w := by rcases c.w_cases with h | h | h <;> omega

theorem Config.w_le (c : Config) : c.w ≤ 64 := by rcases c.w_cases with h | h | h <;> omega

theorem Config.nctx_pos (c : Config) : 0 < c.nctx := by simp [Config.nctx]

theorem Config.nctx_le (c : Config) : c.nctx ≤ 256 := by
  have := c.nctxM1.isLt
  simp only [Config.nctx]; omega

/-- The closed form exists at W = 16 only (R8). -/
theorem Config.w_of_closedForm (c : Config) (h : c.closedForm = true) : c.w = 16 := by
  rcases c with ⟨d, _, _, _, _⟩
  cases d <;> simp_all [Config.closedForm, Config.w, Datapath.bits]

end Sys2Proof
end

