-- ==== Sys2Proof/Laws/Decode.lean ====
section
/-! SUPPORT. The fields of a command word and of the commands' encodings (30_encoding.md R70, R74, R82). -/

namespace Sys2Proof

/-- Splitting a packed word gives the fields back (R70). -/
theorem splitWord_packWord (f : Fields) : splitWord (packWord f) = f := by
  rcases f with ⟨op, ctx, sel, arg⟩
  simp only [splitWord, packWord, Fields.mk.injEq]
  refine ⟨?_, ?_, ?_, ?_⟩ <;>
  · apply BitVec.eq_of_getLsbD_eq
    intro i hi
    simp only [BitVec.getLsbD_extractLsb', BitVec.getLsbD_append]
    split_ifs <;> first
      | omega
      | (rw [decide_eq_true hi, Bool.true_and]; exact congrArg (BitVec.getLsbD _) (by omega))

/-- Packing the fields of a word gives the word back (R70). -/
theorem packWord_splitWord (cw : CommandWord) : packWord (splitWord cw) = cw := by
  apply BitVec.eq_of_getLsbD_eq
  intro i hi
  simp only [splitWord, packWord, BitVec.getLsbD_extractLsb', BitVec.getLsbD_append]
  split_ifs <;> (rw [decide_eq_true (by omega), Bool.true_and]; exact congrArg (BitVec.getLsbD cw) (by omega))

theorem decode_packWord (f : Fields) : decode (packWord f) = decodeFields f := by
  rw [decode, splitWord_packWord]

theorem decode_encode_eq (i : Instr) : decode (encode i) = decodeFields (fieldsOf i) := decode_packWord _

/-! ## The opcode map, row by row (R76) -/

variable (ctx sel : BitVec 8) (arg : Data)

@[simp] theorem decodeFields_status : decodeFields ⟨0x01#8, ctx, sel, arg⟩ = formatN ⟨0x01#8, ctx, sel, arg⟩ .status := rfl
@[simp] theorem decodeFields_setpoly : decodeFields ⟨0x10#8, ctx, sel, arg⟩ = formatA ⟨0x10#8, ctx, sel, arg⟩ .setpoly := rfl
@[simp] theorem decodeFields_setinit : decodeFields ⟨0x11#8, ctx, sel, arg⟩ = formatA ⟨0x11#8, ctx, sel, arg⟩ .setinit := rfl
@[simp] theorem decodeFields_setxor : decodeFields ⟨0x12#8, ctx, sel, arg⟩ = formatA ⟨0x12#8, ctx, sel, arg⟩ .setxor := rfl
@[simp] theorem decodeFields_setref : decodeFields ⟨0x13#8, ctx, sel, arg⟩ = formatR ⟨0x13#8, ctx, sel, arg⟩ .setref := rfl
@[simp] theorem decodeFields_build : decodeFields ⟨0x14#8, ctx, sel, arg⟩ = formatN ⟨0x14#8, ctx, sel, arg⟩ .build := rfl
@[simp] theorem decodeFields_update : decodeFields ⟨0x20#8, ctx, sel, arg⟩ = formatCB ⟨0x20#8, ctx, sel, arg⟩ .update := rfl
@[simp] theorem decodeFields_updatew : decodeFields ⟨0x21#8, ctx, sel, arg⟩ = formatCU ⟨0x21#8, ctx, sel, arg⟩ .updatew := rfl
@[simp] theorem decodeFields_reset : decodeFields ⟨0x22#8, ctx, sel, arg⟩ = formatC ⟨0x22#8, ctx, sel, arg⟩ .reset := rfl
@[simp] theorem decodeFields_value : decodeFields ⟨0x23#8, ctx, sel, arg⟩ = formatC ⟨0x23#8, ctx, sel, arg⟩ .value := rfl
@[simp] theorem decodeFields_seed : decodeFields ⟨0x24#8, ctx, sel, arg⟩ = formatCA ⟨0x24#8, ctx, sel, arg⟩ .seed := rfl
@[simp] theorem decodeFields_table : decodeFields ⟨0x25#8, ctx, sel, arg⟩ = formatX ⟨0x25#8, ctx, sel, arg⟩ .table := rfl
@[simp] theorem decodeFields_reflect : decodeFields ⟨0x30#8, ctx, sel, arg⟩ = formatA ⟨0x30#8, ctx, sel, arg⟩ .reflect := rfl

/-- Every other `op` is illegal (R77). -/
theorem decodeFields_of_ne (f : Fields) (h : f.op ≠ 0x01#8 ∧ f.op ≠ 0x10#8 ∧ f.op ≠ 0x11#8 ∧ f.op ≠ 0x12#8 ∧ f.op ≠ 0x13#8 ∧
    f.op ≠ 0x14#8 ∧ f.op ≠ 0x20#8 ∧ f.op ≠ 0x21#8 ∧ f.op ≠ 0x22#8 ∧ f.op ≠ 0x23#8 ∧ f.op ≠ 0x24#8 ∧ f.op ≠ 0x25#8 ∧ f.op ≠ 0x30#8) :
    decodeFields f = .illegal := by
  obtain ⟨h1, h2, h3, h4, h5, h6, h7, h8, h9, h10, h11, h12, h13⟩ := h
  rw [decodeFields, if_neg h1, if_neg h2, if_neg h3, if_neg h4, if_neg h5, if_neg h6, if_neg h7, if_neg h8, if_neg h9,
    if_neg h10, if_neg h11, if_neg h12, if_neg h13]

/-- An `op` byte is one of the 13 opcodes or none of them (R76, R77). -/
theorem op_cases (op : BitVec 8) : op = 0x01#8 ∨ op = 0x10#8 ∨ op = 0x11#8 ∨ op = 0x12#8 ∨ op = 0x13#8 ∨ op = 0x14#8 ∨ op = 0x20#8 ∨
    op = 0x21#8 ∨ op = 0x22#8 ∨ op = 0x23#8 ∨ op = 0x24#8 ∨ op = 0x25#8 ∨ op = 0x30#8 ∨
    (op ≠ 0x01#8 ∧ op ≠ 0x10#8 ∧ op ≠ 0x11#8 ∧ op ≠ 0x12#8 ∧ op ≠ 0x13#8 ∧ op ≠ 0x14#8 ∧ op ≠ 0x20#8 ∧ op ≠ 0x21#8 ∧ op ≠ 0x22#8 ∧
      op ≠ 0x23#8 ∧ op ≠ 0x24#8 ∧ op ≠ 0x25#8 ∧ op ≠ 0x30#8) := by
  tauto

/-! ## Ranges of `arg` that must be 0, as numbers (R74) -/

/-- `arg[63:8] = 0` says that `arg` is a byte. -/
theorem extract_high56_eq_zero_iff (arg : Data) : arg.extractLsb' 8 56 = 0 ↔ arg.toNat < 256 := by
  have := arg.isLt
  rw [← BitVec.toNat_inj, BitVec.extractLsb'_toNat, Nat.shiftRight_eq_div_pow]
  simp only [BitVec.ofNat_eq_ofNat, BitVec.toNat_ofNat]
  omega

/-- `arg[63:2] = 0` says that `arg` is two bits. -/
theorem extract_high62_eq_zero_iff (arg : Data) : arg.extractLsb' 2 62 = 0 ↔ arg.toNat < 4 := by
  have := arg.isLt
  rw [← BitVec.toNat_inj, BitVec.extractLsb'_toNat, Nat.shiftRight_eq_div_pow]
  simp only [BitVec.ofNat_eq_ofNat, BitVec.toNat_ofNat]
  omega

/-- A byte as `arg` is the byte again. -/
theorem extract_low8_setWidth (b : Byte) : (b.setWidth 64).extractLsb' 0 8 = b := by
  apply BitVec.eq_of_toNat_eq
  have := b.isLt
  rw [BitVec.extractLsb'_toNat, BitVec.toNat_setWidth, Nat.shiftRight_zero]
  omega

theorem toNat_setWidth_byte (b : Byte) : (b.setWidth 64).toNat = b.toNat := by
  have := b.isLt
  rw [BitVec.toNat_setWidth]
  omega

end Sys2Proof
end

