-- ==== Sys2Proof/Laws/Engine.lean ====
section
/-! SUPPORT. The division steps are linear and mirror each other, the table index is a number below 256, and BUILD's check in
numbers (40_table_generator.md R105 to R107; 41_update_engine.md R120, R121; 46_ccitt16.md R183). -/

namespace Sys2Proof.Machine

/-! ## Division steps -/

theorem stepNonref_xor {w : Nat} (p a b : BitVec w) : stepNonref p (a ^^^ b) = stepNonref p a ^^^ stepNonref p b := by
  simp only [stepNonref, BitVec.getLsbD_xor, BitVec.shiftLeft_xor_distrib]
  cases a.getLsbD (w - 1) <;> cases b.getLsbD (w - 1) <;> simp
  · rw [BitVec.xor_assoc]
  · rw [BitVec.xor_assoc, BitVec.xor_assoc, BitVec.xor_comm p]
  · rw [BitVec.xor_assoc, ← BitVec.xor_assoc p, BitVec.xor_comm p, BitVec.xor_assoc, BitVec.xor_self, BitVec.xor_zero]

theorem stepRef_xor {w : Nat} (p a b : BitVec w) : stepRef p (a ^^^ b) = stepRef p a ^^^ stepRef p b := by
  simp only [stepRef, BitVec.getLsbD_xor, BitVec.ushiftRight_xor_distrib]
  cases a.getLsbD 0 <;> cases b.getLsbD 0 <;> simp
  · rw [BitVec.xor_assoc]
  · rw [BitVec.xor_assoc, BitVec.xor_assoc, BitVec.xor_comm p]
  · rw [BitVec.xor_assoc, ← BitVec.xor_assoc p, BitVec.xor_comm p, BitVec.xor_assoc, BitVec.xor_self, BitVec.xor_zero]

/-- Repeating a linear step is linear. -/
theorem repeatStep_xor {w : Nat} {f : BitVec w → BitVec w} (hf : ∀ a b, f (a ^^^ b) = f a ^^^ f b) (n : Nat) (a b : BitVec w) :
    repeatStep f n (a ^^^ b) = repeatStep f n a ^^^ repeatStep f n b := by
  induction n generalizing a b with
  | zero => rfl
  | succ n ih => rw [repeatStep, hf, ih]; rfl

/-- Repeating a step that fixes 0 fixes 0. -/
theorem repeatStep_zero {w : Nat} {f : BitVec w → BitVec w} (hf : f 0 = 0) (n : Nat) : repeatStep f n 0 = 0 := by
  induction n with
  | zero => rfl
  | succ n ih => rw [repeatStep, hf, ih]

/-- `repeat n times` is the n-th iterate. -/
theorem repeatStep_eq_iterate {w : Nat} (f : BitVec w → BitVec w) (n : Nat) (v : BitVec w) : repeatStep f n v = f^[n] v := by
  induction n generalizing v with
  | zero => rfl
  | succ n ih => rw [repeatStep, ih]; rfl

/-! ## The table index -/

/-- Bit `j` of the index is bit `j` of the value, at any width of at least 8. -/
theorem getLsbD_lowByte {w : Nat} (x : BitVec w) (j : Nat) (hw : 8 ≤ w) :
    (lowByte x).getLsbD j = (decide (j < 8) && x.getLsbD j) := by
  have ones : (255 : Nat).testBit j = decide (j < 8) := by simpa using Nat.testBit_two_pow_sub_one 8 j
  simp only [lowByte, BitVec.getLsbD_setWidth, BitVec.getLsbD_and, BitVec.getLsbD_ofNat, ones]
  by_cases h : j < 8
  · have : j < w := by omega
    simp [h, this, -BitVec.getLsbD_eq_getElem]
  · simp [h]

/-- The index as a number. -/
theorem toNat_lowByte {w : Nat} (x : BitVec w) (hw : 8 ≤ w) : (lowByte x).toNat = x.toNat % 256 := by
  have : (255 : Nat) % 2 ^ w = 2 ^ 8 - 1 :=
    Nat.mod_eq_of_lt (Nat.lt_of_lt_of_le (by decide) (Nat.pow_le_pow_right (by decide) hw))
  rw [lowByte, BitVec.toNat_setWidth, BitVec.toNat_and, BitVec.toNat_ofNat, this, Nat.and_two_pow_sub_one_eq_mod]
  omega

/-! ## BUILD's check -/

theorem buildAccepts_iff (s : State) : buildAccepts s = true ↔
    s.sRefin = s.sRefout ∧ (s.cfg.closedForm = true → s.sRefin = true ∧ s.sPoly.toNat = 0x1021) := by
  have hp : (s.sPoly == BitVec.ofNat s.cfg.w 0x1021) = decide (s.sPoly.toNat = 0x1021) := by
    rw [Bool.eq_iff_iff, beq_iff_eq, decide_eq_true_iff, ← BitVec.toNat_inj, BitVec.toNat_ofNat]
    have : 2 ^ 16 ≤ 2 ^ s.cfg.w := Nat.pow_le_pow_right (by decide) s.cfg.le_w
    rw [Nat.mod_eq_of_lt (by omega)]
  rw [buildAccepts, hp]
  cases s.sRefin <;> cases s.sRefout <;> cases s.cfg.closedForm <;> simp

end Sys2Proof.Machine
end

