-- ==== Sys2Proof/Laws/State.lean ====
section
/-! SUPPORT. What each state operation does to each field, by definition; so that no later proof unfolds a record update. -/

namespace Sys2Proof.Machine

variable (s : State)

/-- Raising an error is responding with it and data 0 (60_exceptions.md R190, R197). -/
@[simp] theorem raise_eq_respond (e : Status) : raise s e = respond s e 0 := rfl

@[simp] theorem complete_eq_next (d : Data) : complete s d = .next (respond s .ok d) := rfl

@[simp] theorem fail_eq_next (e : Status) : fail s e = .next (respond s e 0) := rfl

@[simp] theorem idle_eq_next : idle s = .next s := rfl

/-! ## `respond` -/

@[simp] theorem respond_cfg (st : Status) (d : Data) : (respond s st d).cfg = s.cfg := rfl
@[simp] theorem respond_sPoly (st : Status) (d : Data) : (respond s st d).sPoly = s.sPoly := rfl
@[simp] theorem respond_sInit (st : Status) (d : Data) : (respond s st d).sInit = s.sInit := rfl
@[simp] theorem respond_sXor (st : Status) (d : Data) : (respond s st d).sXor = s.sXor := rfl
@[simp] theorem respond_sRefin (st : Status) (d : Data) : (respond s st d).sRefin = s.sRefin := rfl
@[simp] theorem respond_sRefout (st : Status) (d : Data) : (respond s st d).sRefout = s.sRefout := rfl
@[simp] theorem respond_configured (st : Status) (d : Data) : (respond s st d).configured = s.configured := rfl
@[simp] theorem respond_aPoly (st : Status) (d : Data) : (respond s st d).aPoly = s.aPoly := rfl
@[simp] theorem respond_aInit (st : Status) (d : Data) : (respond s st d).aInit = s.aInit := rfl
@[simp] theorem respond_aXor (st : Status) (d : Data) : (respond s st d).aXor = s.aXor := rfl
@[simp] theorem respond_aRef (st : Status) (d : Data) : (respond s st d).aRef = s.aRef := rfl
@[simp] theorem respond_table (st : Status) (d : Data) : (respond s st d).table = s.table := rfl
@[simp] theorem respond_crc (st : Status) (d : Data) : (respond s st d).crc = s.crc := rfl
@[simp] theorem respond_pending (st : Status) (d : Data) : (respond s st d).pending = s.pending := rfl
@[simp] theorem respond_responses (st : Status) (d : Data) : (respond s st d).responses = s.responses ++ [⟨st, d⟩] := rfl

/-! ## `setSPoly` -/

@[simp] theorem setSPoly_cfg (v : BitVec s.cfg.w) : (setSPoly s v).cfg = s.cfg := rfl
@[simp] theorem setSPoly_sPoly (v : BitVec s.cfg.w) : (setSPoly s v).sPoly = v := rfl
@[simp] theorem setSPoly_sInit (v : BitVec s.cfg.w) : (setSPoly s v).sInit = s.sInit := rfl
@[simp] theorem setSPoly_sXor (v : BitVec s.cfg.w) : (setSPoly s v).sXor = s.sXor := rfl
@[simp] theorem setSPoly_sRefin (v : BitVec s.cfg.w) : (setSPoly s v).sRefin = s.sRefin := rfl
@[simp] theorem setSPoly_sRefout (v : BitVec s.cfg.w) : (setSPoly s v).sRefout = s.sRefout := rfl
@[simp] theorem setSPoly_configured (v : BitVec s.cfg.w) : (setSPoly s v).configured = s.configured := rfl
@[simp] theorem setSPoly_aPoly (v : BitVec s.cfg.w) : (setSPoly s v).aPoly = s.aPoly := rfl
@[simp] theorem setSPoly_aInit (v : BitVec s.cfg.w) : (setSPoly s v).aInit = s.aInit := rfl
@[simp] theorem setSPoly_aXor (v : BitVec s.cfg.w) : (setSPoly s v).aXor = s.aXor := rfl
@[simp] theorem setSPoly_aRef (v : BitVec s.cfg.w) : (setSPoly s v).aRef = s.aRef := rfl
@[simp] theorem setSPoly_table (v : BitVec s.cfg.w) : (setSPoly s v).table = s.table := rfl
@[simp] theorem setSPoly_crc (v : BitVec s.cfg.w) : (setSPoly s v).crc = s.crc := rfl
@[simp] theorem setSPoly_pending (v : BitVec s.cfg.w) : (setSPoly s v).pending = s.pending := rfl
@[simp] theorem setSPoly_responses (v : BitVec s.cfg.w) : (setSPoly s v).responses = s.responses := rfl

/-! ## `setSInit` -/

@[simp] theorem setSInit_cfg (v : BitVec s.cfg.w) : (setSInit s v).cfg = s.cfg := rfl
@[simp] theorem setSInit_sPoly (v : BitVec s.cfg.w) : (setSInit s v).sPoly = s.sPoly := rfl
@[simp] theorem setSInit_sInit (v : BitVec s.cfg.w) : (setSInit s v).sInit = v := rfl
@[simp] theorem setSInit_sXor (v : BitVec s.cfg.w) : (setSInit s v).sXor = s.sXor := rfl
@[simp] theorem setSInit_sRefin (v : BitVec s.cfg.w) : (setSInit s v).sRefin = s.sRefin := rfl
@[simp] theorem setSInit_sRefout (v : BitVec s.cfg.w) : (setSInit s v).sRefout = s.sRefout := rfl
@[simp] theorem setSInit_configured (v : BitVec s.cfg.w) : (setSInit s v).configured = s.configured := rfl
@[simp] theorem setSInit_aPoly (v : BitVec s.cfg.w) : (setSInit s v).aPoly = s.aPoly := rfl
@[simp] theorem setSInit_aInit (v : BitVec s.cfg.w) : (setSInit s v).aInit = s.aInit := rfl
@[simp] theorem setSInit_aXor (v : BitVec s.cfg.w) : (setSInit s v).aXor = s.aXor := rfl
@[simp] theorem setSInit_aRef (v : BitVec s.cfg.w) : (setSInit s v).aRef = s.aRef := rfl
@[simp] theorem setSInit_table (v : BitVec s.cfg.w) : (setSInit s v).table = s.table := rfl
@[simp] theorem setSInit_crc (v : BitVec s.cfg.w) : (setSInit s v).crc = s.crc := rfl
@[simp] theorem setSInit_pending (v : BitVec s.cfg.w) : (setSInit s v).pending = s.pending := rfl
@[simp] theorem setSInit_responses (v : BitVec s.cfg.w) : (setSInit s v).responses = s.responses := rfl

/-! ## `setSXor` -/

@[simp] theorem setSXor_cfg (v : BitVec s.cfg.w) : (setSXor s v).cfg = s.cfg := rfl
@[simp] theorem setSXor_sPoly (v : BitVec s.cfg.w) : (setSXor s v).sPoly = s.sPoly := rfl
@[simp] theorem setSXor_sInit (v : BitVec s.cfg.w) : (setSXor s v).sInit = s.sInit := rfl
@[simp] theorem setSXor_sXor (v : BitVec s.cfg.w) : (setSXor s v).sXor = v := rfl
@[simp] theorem setSXor_sRefin (v : BitVec s.cfg.w) : (setSXor s v).sRefin = s.sRefin := rfl
@[simp] theorem setSXor_sRefout (v : BitVec s.cfg.w) : (setSXor s v).sRefout = s.sRefout := rfl
@[simp] theorem setSXor_configured (v : BitVec s.cfg.w) : (setSXor s v).configured = s.configured := rfl
@[simp] theorem setSXor_aPoly (v : BitVec s.cfg.w) : (setSXor s v).aPoly = s.aPoly := rfl
@[simp] theorem setSXor_aInit (v : BitVec s.cfg.w) : (setSXor s v).aInit = s.aInit := rfl
@[simp] theorem setSXor_aXor (v : BitVec s.cfg.w) : (setSXor s v).aXor = s.aXor := rfl
@[simp] theorem setSXor_aRef (v : BitVec s.cfg.w) : (setSXor s v).aRef = s.aRef := rfl
@[simp] theorem setSXor_table (v : BitVec s.cfg.w) : (setSXor s v).table = s.table := rfl
@[simp] theorem setSXor_crc (v : BitVec s.cfg.w) : (setSXor s v).crc = s.crc := rfl
@[simp] theorem setSXor_pending (v : BitVec s.cfg.w) : (setSXor s v).pending = s.pending := rfl
@[simp] theorem setSXor_responses (v : BitVec s.cfg.w) : (setSXor s v).responses = s.responses := rfl

/-! ## `setSRef` -/

@[simp] theorem setSRef_cfg (rin rout : Bool) : (setSRef s rin rout).cfg = s.cfg := rfl
@[simp] theorem setSRef_sPoly (rin rout : Bool) : (setSRef s rin rout).sPoly = s.sPoly := rfl
@[simp] theorem setSRef_sInit (rin rout : Bool) : (setSRef s rin rout).sInit = s.sInit := rfl
@[simp] theorem setSRef_sXor (rin rout : Bool) : (setSRef s rin rout).sXor = s.sXor := rfl
@[simp] theorem setSRef_sRefin (rin rout : Bool) : (setSRef s rin rout).sRefin = rin := rfl
@[simp] theorem setSRef_sRefout (rin rout : Bool) : (setSRef s rin rout).sRefout = rout := rfl
@[simp] theorem setSRef_configured (rin rout : Bool) : (setSRef s rin rout).configured = s.configured := rfl
@[simp] theorem setSRef_aPoly (rin rout : Bool) : (setSRef s rin rout).aPoly = s.aPoly := rfl
@[simp] theorem setSRef_aInit (rin rout : Bool) : (setSRef s rin rout).aInit = s.aInit := rfl
@[simp] theorem setSRef_aXor (rin rout : Bool) : (setSRef s rin rout).aXor = s.aXor := rfl
@[simp] theorem setSRef_aRef (rin rout : Bool) : (setSRef s rin rout).aRef = s.aRef := rfl
@[simp] theorem setSRef_table (rin rout : Bool) : (setSRef s rin rout).table = s.table := rfl
@[simp] theorem setSRef_crc (rin rout : Bool) : (setSRef s rin rout).crc = s.crc := rfl
@[simp] theorem setSRef_pending (rin rout : Bool) : (setSRef s rin rout).pending = s.pending := rfl
@[simp] theorem setSRef_responses (rin rout : Bool) : (setSRef s rin rout).responses = s.responses := rfl

/-! ## `writeCrc` -/

@[simp] theorem writeCrc_cfg (c : Fin s.cfg.nctx) (v : BitVec s.cfg.w) : (writeCrc s c v).cfg = s.cfg := rfl
@[simp] theorem writeCrc_sPoly (c : Fin s.cfg.nctx) (v : BitVec s.cfg.w) : (writeCrc s c v).sPoly = s.sPoly := rfl
@[simp] theorem writeCrc_sInit (c : Fin s.cfg.nctx) (v : BitVec s.cfg.w) : (writeCrc s c v).sInit = s.sInit := rfl
@[simp] theorem writeCrc_sXor (c : Fin s.cfg.nctx) (v : BitVec s.cfg.w) : (writeCrc s c v).sXor = s.sXor := rfl
@[simp] theorem writeCrc_sRefin (c : Fin s.cfg.nctx) (v : BitVec s.cfg.w) : (writeCrc s c v).sRefin = s.sRefin := rfl
@[simp] theorem writeCrc_sRefout (c : Fin s.cfg.nctx) (v : BitVec s.cfg.w) : (writeCrc s c v).sRefout = s.sRefout := rfl
@[simp] theorem writeCrc_configured (c : Fin s.cfg.nctx) (v : BitVec s.cfg.w) : (writeCrc s c v).configured = s.configured := rfl
@[simp] theorem writeCrc_aPoly (c : Fin s.cfg.nctx) (v : BitVec s.cfg.w) : (writeCrc s c v).aPoly = s.aPoly := rfl
@[simp] theorem writeCrc_aInit (c : Fin s.cfg.nctx) (v : BitVec s.cfg.w) : (writeCrc s c v).aInit = s.aInit := rfl
@[simp] theorem writeCrc_aXor (c : Fin s.cfg.nctx) (v : BitVec s.cfg.w) : (writeCrc s c v).aXor = s.aXor := rfl
@[simp] theorem writeCrc_aRef (c : Fin s.cfg.nctx) (v : BitVec s.cfg.w) : (writeCrc s c v).aRef = s.aRef := rfl
@[simp] theorem writeCrc_table (c : Fin s.cfg.nctx) (v : BitVec s.cfg.w) : (writeCrc s c v).table = s.table := rfl
@[simp] theorem writeCrc_crc (c : Fin s.cfg.nctx) (v : BitVec s.cfg.w) : (writeCrc s c v).crc = s.crc.set c.val v c.isLt := rfl
@[simp] theorem writeCrc_pending (c : Fin s.cfg.nctx) (v : BitVec s.cfg.w) : (writeCrc s c v).pending = s.pending := rfl
@[simp] theorem writeCrc_responses (c : Fin s.cfg.nctx) (v : BitVec s.cfg.w) : (writeCrc s c v).responses = s.responses := rfl

/-! ## `installEngine` -/

@[simp] theorem installEngine_cfg : (installEngine s).cfg = s.cfg := rfl
@[simp] theorem installEngine_sPoly : (installEngine s).sPoly = s.sPoly := rfl
@[simp] theorem installEngine_sInit : (installEngine s).sInit = s.sInit := rfl
@[simp] theorem installEngine_sXor : (installEngine s).sXor = s.sXor := rfl
@[simp] theorem installEngine_sRefin : (installEngine s).sRefin = s.sRefin := rfl
@[simp] theorem installEngine_sRefout : (installEngine s).sRefout = s.sRefout := rfl
@[simp] theorem installEngine_configured : (installEngine s).configured = true := rfl
@[simp] theorem installEngine_aPoly : (installEngine s).aPoly = s.sPoly := rfl
@[simp] theorem installEngine_aInit : (installEngine s).aInit = s.sInit := rfl
@[simp] theorem installEngine_aXor : (installEngine s).aXor = s.sXor := rfl
@[simp] theorem installEngine_aRef : (installEngine s).aRef = s.sRefin := rfl
@[simp] theorem installEngine_table : (installEngine s).table = buildTable s.sRefin s.sPoly := rfl
@[simp] theorem installEngine_crc : (installEngine s).crc = Vector.replicate s.cfg.nctx s.sInit := rfl
@[simp] theorem installEngine_pending : (installEngine s).pending = s.pending := rfl
@[simp] theorem installEngine_responses : (installEngine s).responses = s.responses := rfl

/-! ## `presentCommand` -/

@[simp] theorem presentCommand_cfg (cw : CommandWord) : (presentCommand s cw).cfg = s.cfg := rfl
@[simp] theorem presentCommand_sPoly (cw : CommandWord) : (presentCommand s cw).sPoly = s.sPoly := rfl
@[simp] theorem presentCommand_sInit (cw : CommandWord) : (presentCommand s cw).sInit = s.sInit := rfl
@[simp] theorem presentCommand_sXor (cw : CommandWord) : (presentCommand s cw).sXor = s.sXor := rfl
@[simp] theorem presentCommand_sRefin (cw : CommandWord) : (presentCommand s cw).sRefin = s.sRefin := rfl
@[simp] theorem presentCommand_sRefout (cw : CommandWord) : (presentCommand s cw).sRefout = s.sRefout := rfl
@[simp] theorem presentCommand_configured (cw : CommandWord) : (presentCommand s cw).configured = s.configured := rfl
@[simp] theorem presentCommand_aPoly (cw : CommandWord) : (presentCommand s cw).aPoly = s.aPoly := rfl
@[simp] theorem presentCommand_aInit (cw : CommandWord) : (presentCommand s cw).aInit = s.aInit := rfl
@[simp] theorem presentCommand_aXor (cw : CommandWord) : (presentCommand s cw).aXor = s.aXor := rfl
@[simp] theorem presentCommand_aRef (cw : CommandWord) : (presentCommand s cw).aRef = s.aRef := rfl
@[simp] theorem presentCommand_table (cw : CommandWord) : (presentCommand s cw).table = s.table := rfl
@[simp] theorem presentCommand_crc (cw : CommandWord) : (presentCommand s cw).crc = s.crc := rfl
@[simp] theorem presentCommand_pending (cw : CommandWord) : (presentCommand s cw).pending = cw :: s.pending := rfl
@[simp] theorem presentCommand_responses (cw : CommandWord) : (presentCommand s cw).responses = s.responses := rfl

/-! ## The command port -/

theorem takeCommand_nil (h : s.pending = []) : takeCommand s = none := by simp [takeCommand, h]

theorem takeCommand_cons (cw : CommandWord) (rest : List CommandWord) (h : s.pending = cw :: rest) :
    takeCommand s = some (cw, { s with pending := rest }) := by simp [takeCommand, h]

/-- Presenting a word and accepting it leaves the state as it was. -/
theorem takeCommand_presentCommand (cw : CommandWord) : takeCommand (presentCommand s cw) = some (cw, s) := rfl

end Sys2Proof.Machine
end

