-- ==== Sys2Proof/Laws/Memory.lean ====
section
/-! SUPPORT. Reading back what was written: the table after a construction, a running register after a write (20_memory.md R52,
R64; 10_state.md R30). -/

namespace Sys2Proof.Machine

/-- Entry `i` of a built table is the generator's entry `i` (40_table_generator.md R104). -/
@[simp] theorem readEntry_buildTable {w : Nat} (ref : Bool) (poly : BitVec w) (i : Byte) :
    readEntry (buildTable ref poly) i = tabEntry ref poly i := by
  simp [readEntry, buildTable]

/-- Tables are equal when their 256 entries are. -/
theorem table_ext {w : Nat} {T U : Table w} (h : ∀ i : Byte, readEntry T i = readEntry U i) : T = U := by
  apply Vector.ext
  intro k hk
  simpa [readEntry, Nat.mod_eq_of_lt hk] using h (BitVec.ofNat 8 k)

/-- A written register reads as written. -/
@[simp] theorem readCrc_writeCrc_same (s : State) (c : Fin s.cfg.nctx) (v : BitVec s.cfg.w) :
    readCrc (writeCrc s c v) c = v := by
  simp [readCrc]

/-- Every other register reads as before (R30). -/
theorem readCrc_writeCrc_ne (s : State) (c d : Fin s.cfg.nctx) (v : BitVec s.cfg.w) (h : c ≠ d) :
    readCrc (writeCrc s c v) d = readCrc s d := by
  have : c.val ≠ d.val := fun e => h (Fin.ext e)
  simp [readCrc, this]

theorem crcData_of_lt (s : State) (c : Nat) (h : c < s.cfg.nctx) : crcData s c = some (zext64 s.crc[c]) := by
  simp [crcData, h]

theorem crcData_of_le (s : State) (c : Nat) (h : s.cfg.nctx ≤ c) : crcData s c = none := by
  simp [crcData, Nat.not_lt.2 h]

theorem crcData_writeCrc_same (s : State) (c : Fin s.cfg.nctx) (v : BitVec s.cfg.w) :
    crcData (writeCrc s c v) c.val = some (zext64 v) := by
  simp [crcData]

theorem crcData_writeCrc_ne (s : State) (c : Fin s.cfg.nctx) (v : BitVec s.cfg.w) (d : Nat) (h : c.val ≠ d) :
    crcData (writeCrc s c v) d = crcData s d := by
  simp [crcData, h]

@[simp] theorem crcData_respond (s : State) (st : Status) (x : Data) (c : Nat) :
    crcData (respond s st x) c = crcData s c := rfl

/-! ## The fold over a sequence (41_update_engine.md R123) -/

@[simp] theorem fold_nil {w : Nat} (ref : Bool) (r : BitVec w) (T : Table w) : fold ref r [] T = r := rfl

@[simp] theorem fold_cons {w : Nat} (ref : Bool) (r : BitVec w) (b : Byte) (bs : List Byte) (T : Table w) :
    fold ref r (b :: bs) T = fold ref (upd ref r b T) bs T := rfl

end Sys2Proof.Machine
end

