-- ==== Sys2Proof/Laws/Operands.lean ====
section
/-! SUPPORT. Everything the operand checks can do, said once: each passes its operand on or answers its error. -/

namespace Sys2Proof.Machine

/-! ## W-bit operands -/

/-- `arg[63:W] = 0` says that the operand is a W-bit number (30_encoding.md R74). -/
theorem ushiftRight_eq_zero_iff (w : Nat) (arg : Data) : arg >>> w = 0 ↔ arg.toNat < 2 ^ w := by
  rw [← BitVec.toNat_inj, BitVec.toNat_ushiftRight, Nat.shiftRight_eq_div_pow]
  simp [Nat.div_eq_zero_iff]

theorem withOperand_of_lt {s : State} {arg : Data} (k : BitVec s.cfg.w → Host.Outcome State Fault Refusal)
    (h : arg.toNat < 2 ^ s.cfg.w) : withOperand s arg k = k (arg.setWidth s.cfg.w) := by
  simp [withOperand, (ushiftRight_eq_zero_iff _ _).2 h]

theorem withOperand_of_le {s : State} {arg : Data} (k : BitVec s.cfg.w → Host.Outcome State Fault Refusal)
    (h : 2 ^ s.cfg.w ≤ arg.toNat) : withOperand s arg k = .next (respond s .errOperand 0) := by
  have : ¬ arg >>> s.cfg.w = 0 := fun e => absurd ((ushiftRight_eq_zero_iff _ _).1 e) (by omega)
  rw [withOperand, if_neg this, fail_eq_next]

/-! ## Contexts -/

theorem withContext_of_lt {s : State} {c : BitVec 8} (k : Fin s.cfg.nctx → Host.Outcome State Fault Refusal)
    (h : c.toNat < s.cfg.nctx) : withContext s c k = k ⟨c.toNat, h⟩ := by
  simp [withContext, h]

theorem withContext_of_le {s : State} {c : BitVec 8} (k : Fin s.cfg.nctx → Host.Outcome State Fault Refusal)
    (h : s.cfg.nctx ≤ c.toNat) : withContext s c k = .next (respond s .errOperand 0) := by
  simp [withContext, Nat.not_lt.2 h]

/-! ## CONFIGURED -/

theorem whenConfigured_of_true {s : State} (k : Host.Outcome State Fault Refusal) (h : s.configured = true) :
    whenConfigured s k = k := by
  simp [whenConfigured, h]

theorem whenConfigured_of_false {s : State} (k : Host.Outcome State Fault Refusal) (h : s.configured = false) :
    whenConfigured s k = .next (respond s .errNotconf 0) := by
  simp [whenConfigured, h]

/-! ## Lanes -/

@[simp] theorem length_lanes (buf : Data) (o n : Nat) : (lanes buf o n).length = n := by simp [lanes]

theorem lanes_zero (buf : Data) (o : Nat) : lanes buf o 0 = [] := rfl

theorem lanes_one (buf : Data) (o : Nat) : lanes buf o 1 = [lane buf o] := by simp [lanes]

theorem rangeInside_iff (o n : BitVec 4) : rangeInside o n = true ↔ o.toNat + n.toNat ≤ 8 := by simp [rangeInside]

end Sys2Proof.Machine
end

