-- ==== Sys2Proof/Laws/Exec.lean ====
section
/-! SUPPORT. Everything each meaning can answer, said once per command (30_encoding.md R73): one of its errors with nothing
written, or its effect. -/

namespace Sys2Proof.Machine

variable (s : State)

theorem execSetpoly_cases (imm : Data) :
    execSetpoly imm s = .next (respond s .errOperand 0) ∨ ∃ v, execSetpoly imm s = .next (respond (setSPoly s v) .ok 0) := by
  rcases Nat.lt_or_ge imm.toNat (2 ^ s.cfg.w) with h | h
  · exact .inr ⟨_, withOperand_of_lt _ h⟩
  · exact .inl (withOperand_of_le _ h)

theorem execSetinit_cases (imm : Data) :
    execSetinit imm s = .next (respond s .errOperand 0) ∨ ∃ v, execSetinit imm s = .next (respond (setSInit s v) .ok 0) := by
  rcases Nat.lt_or_ge imm.toNat (2 ^ s.cfg.w) with h | h
  · exact .inr ⟨_, withOperand_of_lt _ h⟩
  · exact .inl (withOperand_of_le _ h)

theorem execSetxor_cases (imm : Data) :
    execSetxor imm s = .next (respond s .errOperand 0) ∨ ∃ v, execSetxor imm s = .next (respond (setSXor s v) .ok 0) := by
  rcases Nat.lt_or_ge imm.toNat (2 ^ s.cfg.w) with h | h
  · exact .inr ⟨_, withOperand_of_lt _ h⟩
  · exact .inl (withOperand_of_le _ h)

theorem execBuild_cases :
    (buildAccepts s = false ∧ execBuild s = .next (respond s .errConfig 0)) ∨
      (buildAccepts s = true ∧ execBuild s = .next (respond (installEngine s) .ok 0)) := by
  cases h : buildAccepts s <;> simp [execBuild, h]

/-- A meaning that needs a context and a built engine answers one of the two errors or what it does with them. -/
theorem withContext_cases (c : BitVec 8) (k : Fin s.cfg.nctx → Host.Outcome State Fault Refusal) :
    (∃ e, e ≠ .ok ∧ (withContext s c fun x => whenConfigured s (k x)) = .next (respond s e 0)) ∨
      ∃ h : c.toNat < s.cfg.nctx, s.configured = true ∧ (withContext s c fun x => whenConfigured s (k x)) = k ⟨c.toNat, h⟩ := by
  rcases Nat.lt_or_ge c.toNat s.cfg.nctx with h | h
  · rw [withContext_of_lt _ h]
    cases hc : s.configured
    · exact .inl ⟨.errNotconf, by decide, whenConfigured_of_false _ hc⟩
    · exact .inr ⟨h, rfl, whenConfigured_of_true _ hc⟩
  · exact .inl ⟨.errOperand, by decide, withContext_of_le _ h⟩

theorem execUpdate_cases (c : BitVec 8) (b : Byte) :
    (∃ e, e ≠ .ok ∧ execUpdate c b s = .next (respond s e 0)) ∨
      ∃ h : c.toNat < s.cfg.nctx, s.configured = true ∧ execUpdate c b s =
        .next (respond (writeCrc s ⟨c.toNat, h⟩ (upd s.aRef (readCrc s ⟨c.toNat, h⟩) b s.table)) .ok 0) :=
  withContext_cases s c _

theorem execUpdatew_cases (c : BitVec 8) (o n : BitVec 4) (buf : Data) :
    (∃ e, e ≠ .ok ∧ execUpdatew c o n buf s = .next (respond s e 0)) ∨
      ∃ h : c.toNat < s.cfg.nctx, s.configured = true ∧ o.toNat + n.toNat ≤ 8 ∧ execUpdatew c o n buf s =
        .next (respond (writeCrc s ⟨c.toNat, h⟩
          (fold s.aRef (readCrc s ⟨c.toNat, h⟩) (lanes buf o.toNat n.toNat) s.table)) .ok 0) := by
  rcases withContext_cases s c (fun k => if rangeInside o n then
      complete (writeCrc s k (fold s.aRef (readCrc s k) (lanes buf o.toNat n.toNat) s.table)) 0
    else fail s .errRange) with ⟨e, he, h⟩ | ⟨h, hc, hk⟩
  · exact .inl ⟨e, he, h⟩
  · rcases Nat.lt_or_ge 8 (o.toNat + n.toNat) with hr | hr
    · exact .inl ⟨.errRange, by decide, by rw [execUpdatew, hk, if_neg (by rw [rangeInside_iff]; omega), fail_eq_next]⟩
    · exact .inr ⟨h, hc, hr, by rw [execUpdatew, hk, if_pos ((rangeInside_iff o n).2 hr), complete_eq_next]⟩

theorem execReset_cases (c : BitVec 8) :
    (∃ e, e ≠ .ok ∧ execReset c s = .next (respond s e 0)) ∨
      ∃ h : c.toNat < s.cfg.nctx, s.configured = true ∧
        execReset c s = .next (respond (writeCrc s ⟨c.toNat, h⟩ s.aInit) .ok 0) :=
  withContext_cases s c _

theorem execValue_cases (c : BitVec 8) :
    (∃ e, e ≠ .ok ∧ execValue c s = .next (respond s e 0)) ∨
      ∃ h : c.toNat < s.cfg.nctx, s.configured = true ∧
        execValue c s = .next (respond s .ok (zext64 (fin s.aRef (readCrc s ⟨c.toNat, h⟩) s.aXor))) :=
  withContext_cases s c _

theorem execSeed_cases (c : BitVec 8) (imm : Data) :
    (∃ e, e ≠ .ok ∧ execSeed c imm s = .next (respond s e 0)) ∨
      ∃ h : c.toNat < s.cfg.nctx, s.configured = true ∧ imm.toNat < 2 ^ s.cfg.w ∧
        execSeed c imm s = .next (respond (writeCrc s ⟨c.toNat, h⟩ (imm.setWidth s.cfg.w)) .ok 0) := by
  rcases Nat.lt_or_ge c.toNat s.cfg.nctx with h | h
  · rcases Nat.lt_or_ge imm.toNat (2 ^ s.cfg.w) with h2 | h2
    · cases hc : s.configured
      · exact .inl ⟨.errNotconf, by decide, by
          rw [execSeed, withContext_of_lt _ h, withOperand_of_lt _ h2, whenConfigured_of_false _ hc]⟩
      · exact .inr ⟨h, rfl, h2, by
          rw [execSeed, withContext_of_lt _ h, withOperand_of_lt _ h2, whenConfigured_of_true _ hc, complete_eq_next]⟩
    · exact .inl ⟨.errOperand, by decide, by rw [execSeed, withContext_of_lt _ h, withOperand_of_le _ h2]⟩
  · exact .inl ⟨.errOperand, by decide, withContext_of_le _ h⟩

theorem execTable_cases (i : BitVec 8) :
    (∃ e, e ≠ .ok ∧ execTable i s = .next (respond s e 0)) ∨
      (s.configured = true ∧ execTable i s = .next (respond s .ok (zext64 (readEntry s.table i)))) := by
  cases hc : s.configured
  · exact .inl ⟨.errNotconf, by decide, whenConfigured_of_false _ hc⟩
  · exact .inr ⟨rfl, whenConfigured_of_true _ hc⟩

theorem execReflect_cases (imm : Data) :
    (∃ e, e ≠ .ok ∧ execReflect imm s = .next (respond s e 0)) ∨
      (imm.toNat < 2 ^ s.cfg.w ∧
        execReflect imm s = .next (respond s .ok (zext64 (reflect (imm.setWidth s.cfg.w))))) := by
  rcases Nat.lt_or_ge imm.toNat (2 ^ s.cfg.w) with h | h
  · exact .inr ⟨h, withOperand_of_lt _ h⟩
  · exact .inl ⟨.errOperand, by decide, withOperand_of_le _ h⟩

/-! ## Every command answers (00_scope.md R4) -/

theorem exec_answers (i : Instr) : ∃ t, exec i s = .next t := by
  cases i with
  | status => exact ⟨_, rfl⟩
  | setpoly imm => exact (execSetpoly_cases s imm).elim (fun h => ⟨_, h⟩) fun ⟨_, h⟩ => ⟨_, h⟩
  | setinit imm => exact (execSetinit_cases s imm).elim (fun h => ⟨_, h⟩) fun ⟨_, h⟩ => ⟨_, h⟩
  | setxor imm => exact (execSetxor_cases s imm).elim (fun h => ⟨_, h⟩) fun ⟨_, h⟩ => ⟨_, h⟩
  | setref a b => exact ⟨_, rfl⟩
  | build => exact (execBuild_cases s).elim (fun ⟨_, h⟩ => ⟨_, h⟩) fun ⟨_, h⟩ => ⟨_, h⟩
  | update c b => exact (execUpdate_cases s c b).elim (fun ⟨_, _, h⟩ => ⟨_, h⟩) fun ⟨_, _, h⟩ => ⟨_, h⟩
  | updatew c o n buf => exact (execUpdatew_cases s c o n buf).elim (fun ⟨_, _, h⟩ => ⟨_, h⟩) fun ⟨_, _, _, h⟩ => ⟨_, h⟩
  | reset c => exact (execReset_cases s c).elim (fun ⟨_, _, h⟩ => ⟨_, h⟩) fun ⟨_, _, h⟩ => ⟨_, h⟩
  | value c => exact (execValue_cases s c).elim (fun ⟨_, _, h⟩ => ⟨_, h⟩) fun ⟨_, _, h⟩ => ⟨_, h⟩
  | seed c imm => exact (execSeed_cases s c imm).elim (fun ⟨_, _, h⟩ => ⟨_, h⟩) fun ⟨_, _, _, h⟩ => ⟨_, h⟩
  | table i => exact (execTable_cases s i).elim (fun ⟨_, _, h⟩ => ⟨_, h⟩) fun ⟨_, h⟩ => ⟨_, h⟩
  | reflect imm => exact (execReflect_cases s imm).elim (fun ⟨_, _, h⟩ => ⟨_, h⟩) fun ⟨_, h⟩ => ⟨_, h⟩

/-! ## No command reads the responses given so far (00_scope.md R15) -/

/-- `o` answers a next state with one more response, and `f R` the same state with the responses `R` in place of those of `s`. -/
def AppendsOne (s : State) (o : Host.Outcome State Fault Refusal) (f : List Response → Host.Outcome State Fault Refusal) : Prop :=
  ∃ t r, o = .next t ∧ t.responses = s.responses ++ [r] ∧ ∀ R, f R = .next { t with responses := R ++ [r] }

/-- A meaning that ends in `complete` or `fail` appends one response. -/
theorem appendsOne_respond {u : State} (hu : u.responses = s.responses) (st : Status) (d : Data) :
    AppendsOne s (.next (respond u st d)) fun R => .next (respond { u with responses := R } st d) :=
  ⟨_, ⟨st, d⟩, rfl, by simp [hu], fun _ => rfl⟩

theorem appendsOne_withOperand (arg : Data) {k : BitVec s.cfg.w → Host.Outcome State Fault Refusal}
    {g : List Response → BitVec s.cfg.w → Host.Outcome State Fault Refusal} (h : ∀ v, AppendsOne s (k v) fun R => g R v) :
    AppendsOne s (withOperand s arg k) fun R => withOperand { s with responses := R } arg (g R) := by
  by_cases hl : arg >>> s.cfg.w = 0
  · simpa only [withOperand, hl, if_true] using h _
  · simp only [withOperand, hl, if_false]
    exact appendsOne_respond s rfl .errOperand 0

theorem appendsOne_withContext (c : BitVec 8) {k : Fin s.cfg.nctx → Host.Outcome State Fault Refusal}
    {g : List Response → Fin s.cfg.nctx → Host.Outcome State Fault Refusal} (h : ∀ x, AppendsOne s (k x) fun R => g R x) :
    AppendsOne s (withContext s c k) fun R => withContext { s with responses := R } c (g R) := by
  by_cases hl : c.toNat < s.cfg.nctx
  · simpa only [withContext, hl, dite_true] using h ⟨_, hl⟩
  · simp only [withContext, hl, dite_false]
    exact appendsOne_respond s rfl .errOperand 0

theorem appendsOne_whenConfigured {k : Host.Outcome State Fault Refusal} {g : List Response → Host.Outcome State Fault Refusal}
    (h : AppendsOne s k g) :
    AppendsOne s (whenConfigured s k) fun R => whenConfigured { s with responses := R } (g R) := by
  cases hc : s.configured
  · simpa [whenConfigured, hc] using appendsOne_respond s rfl .errNotconf 0
  · simpa [whenConfigured, hc] using h

theorem buildAccepts_withResponses (R : List Response) : buildAccepts { s with responses := R } = buildAccepts s := rfl

/-- Every command appends one response, and does and answers the same whatever responses were given before. -/
theorem exec_appendsOne (i : Instr) : AppendsOne s (exec i s) fun R => exec i { s with responses := R } := by
  cases i with
  | status => exact appendsOne_respond s rfl .ok (statusWord s)
  | setpoly imm => exact appendsOne_withOperand s imm fun v => appendsOne_respond s (u := setSPoly s v) rfl .ok 0
  | setinit imm => exact appendsOne_withOperand s imm fun v => appendsOne_respond s (u := setSInit s v) rfl .ok 0
  | setxor imm => exact appendsOne_withOperand s imm fun v => appendsOne_respond s (u := setSXor s v) rfl .ok 0
  | setref a b => exact appendsOne_respond s (u := setSRef s a b) rfl .ok 0
  | build =>
    cases h : buildAccepts s <;> simp only [exec, execBuild, buildAccepts_withResponses, h, Bool.false_eq_true, if_true, if_false]
    · exact appendsOne_respond s rfl .errConfig 0
    · exact appendsOne_respond s (u := installEngine s) rfl .ok 0
  | update c b =>
    simp only [exec, execUpdate]
    exact appendsOne_withContext s c fun k => appendsOne_whenConfigured s
      (appendsOne_respond s (u := writeCrc s k (upd s.aRef (readCrc s k) b s.table)) rfl .ok 0)
  | updatew c o n buf =>
    simp only [exec, execUpdatew]
    refine appendsOne_withContext s c fun k => appendsOne_whenConfigured s ?_
    split
    · exact appendsOne_respond s
        (u := writeCrc s k (fold s.aRef (readCrc s k) (lanes buf o.toNat n.toNat) s.table)) rfl .ok 0
    · exact appendsOne_respond s rfl .errRange 0
  | reset c =>
    simp only [exec, execReset]
    exact appendsOne_withContext s c fun k => appendsOne_whenConfigured s
      (appendsOne_respond s (u := writeCrc s k s.aInit) rfl .ok 0)
  | value c =>
    simp only [exec, execValue]
    exact appendsOne_withContext s c fun k => appendsOne_whenConfigured s
      (appendsOne_respond s rfl .ok (zext64 (fin s.aRef (readCrc s k) s.aXor)))
  | seed c imm =>
    simp only [exec, execSeed]
    exact appendsOne_withContext s c fun k => appendsOne_withOperand s imm fun v => appendsOne_whenConfigured s
      (appendsOne_respond s (u := writeCrc s k v) rfl .ok 0)
  | table i =>
    simp only [exec, execTable]
    exact appendsOne_whenConfigured s (appendsOne_respond s rfl .ok (zext64 (readEntry s.table i)))
  | reflect imm =>
    exact appendsOne_withOperand s imm fun v => appendsOne_respond s rfl .ok (zext64 (reflect v))

/-! ## Sequences -/

@[simp] theorem execAll_nil : execAll [] s = .next s := rfl

theorem execAll_cons_of_next {i : Instr} {rest : List Instr} {t : State} (h : exec i s = .next t) :
    execAll (i :: rest) s = execAll rest t := by
  simp [execAll, h]

theorem execAll_answers (cmds : List Instr) : ∃ t, execAll cmds s = .next t := by
  induction cmds generalizing s with
  | nil => exact ⟨s, rfl⟩
  | cons i rest ih =>
    obtain ⟨t, h⟩ := exec_answers s i
    rw [execAll_cons_of_next s h]
    exact ih t

/-- A sequence runs its first part, then its second from the state that the first leaves. -/
theorem execAll_append {xs ys : List Instr} {t : State} (h : execAll xs s = .next t) :
    execAll (xs ++ ys) s = execAll ys t := by
  induction xs generalizing s with
  | nil => cases h; rfl
  | cons i rest ih =>
    obtain ⟨u, hu⟩ := exec_answers s i
    rw [execAll_cons_of_next s hu] at h
    rw [List.cons_append, execAll_cons_of_next s hu]
    exact ih u h

end Sys2Proof.Machine
end

