-- ==== Sys2Proof/Laws/PerInstr.lean ====
section
/-! SUPPORT. Statements about every command as syntax, one lemma per constructor. -/

/-- The `op` byte of a command's word is the command's opcode, and its other fields are those of its encoding
(30_encoding.md R76, R82). -/
def Sys2Proof.Laws.EncodedFields.Statement (i : Sys2Proof.Instr) : Prop :=
  (Sys2Proof.encode i).extractLsb' 80 8 = Sys2Proof.opcode i ∧
    Sys2Proof.splitWord (Sys2Proof.encode i) = Sys2Proof.fieldsOf i

namespace Sys2Proof.Laws.EncodedFields

open Sys2Proof

/-- What splitting the encoded word gives, whatever the command. -/
theorem of_opcode (i : Instr) (h : (fieldsOf i).op = opcode i) : Statement i :=
  ⟨by rw [← h, ← splitWord_packWord (fieldsOf i)]; rfl, splitWord_packWord _⟩

theorem status : Statement .status := of_opcode _ rfl
theorem setpoly (imm : Data) : Statement (.setpoly imm) := of_opcode _ rfl
theorem setinit (imm : Data) : Statement (.setinit imm) := of_opcode _ rfl
theorem setxor (imm : Data) : Statement (.setxor imm) := of_opcode _ rfl
theorem setref (rin rout : Bool) : Statement (.setref rin rout) := of_opcode _ rfl
theorem build : Statement .build := of_opcode _ rfl
theorem update (c : BitVec 8) (b : Byte) : Statement (.update c b) := of_opcode _ rfl
theorem updatew (c : BitVec 8) (o n : BitVec 4) (buf : Data) : Statement (.updatew c o n buf) := of_opcode _ rfl
theorem reset (c : BitVec 8) : Statement (.reset c) := of_opcode _ rfl
theorem value (c : BitVec 8) : Statement (.value c) := of_opcode _ rfl
theorem seed (c : BitVec 8) (imm : Data) : Statement (.seed c imm) := of_opcode _ rfl
theorem table (i : BitVec 8) : Statement (.table i) := of_opcode _ rfl
theorem reflect (imm : Data) : Statement (.reflect imm) := of_opcode _ rfl

end Sys2Proof.Laws.EncodedFields
end

