-- ==== Sys2Proof/Laws/Step.lean ====
section
/-! SUPPORT. What a step is: nothing without a command word, and otherwise the word's effect on the state that has accepted it
(20_memory.md R60, 70_reset_and_hazards.md R230). -/

namespace Sys2Proof.Machine

variable (s : State)

theorem step_nil (h : s.pending = []) : step s = .next s := by simp [step, takeCommand_nil s h]

theorem step_cons (cw : CommandWord) (rest : List CommandWord) (h : s.pending = cw :: rest) :
    step s = execWord cw { s with pending := rest } := by simp [step, takeCommand_cons s cw rest h]

theorem step_presentCommand (cw : CommandWord) : step (presentCommand s cw) = execWord cw s := rfl

theorem execWord_of_instr {cw : CommandWord} {i : Instr} (h : decode cw = .instr i) : execWord cw s = exec i s := by
  simp [execWord, h]

theorem execWord_of_illegal {cw : CommandWord} (h : decode cw = .illegal) :
    execWord cw s = .next (respond s .errIllegal 0) := by simp [execWord, h]

theorem execWord_of_operand {cw : CommandWord} (h : decode cw = .operand) :
    execWord cw s = .next (respond s .errOperand 0) := by simp [execWord, h]

end Sys2Proof.Machine
end

