-- ==== Sys2Proof/Tests/Slice0.lean ====
section
/-! SUPPORT. Tests of one step each, with results from 95_test_vectors.md; the well-formedness smoke tests; and, for every
statement with hypotheses, a concrete state and operands that meet them. -/

namespace Sys2Proof.Tests

open Sys2Proof Sys2Proof.Machine

-- One theorem after the other: elaborated side by side, each would wait in a thread of its own for the kernel.
set_option Elab.async false

/-! ## States for the tests -/

/-- CAVECRC-CORE/W32/N2 with CRC-32 built and every register `0xFFFFFFFF` (95 section 2.7, column "configured"). -/
def crc32 : State :=
  { cfg := Config.suggested, sPoly := 0x04C11DB7#32, sInit := 0xFFFFFFFF#32, sXor := 0xFFFFFFFF#32, sRefin := true,
    sRefout := true, configured := true, aPoly := 0x04C11DB7#32, aInit := 0xFFFFFFFF#32, aXor := 0xFFFFFFFF#32, aRef := true,
    table := buildTable true 0x04C11DB7#32, crc := Vector.replicate 2 0xFFFFFFFF#32, pending := [], responses := [] }

/-- CAVECRC-CORE/W32/N2 with CRC-32/BZIP2 built. -/
def bzip2 : State :=
  { cfg := Config.suggested, sPoly := 0x04C11DB7#32, sInit := 0xFFFFFFFF#32, sXor := 0#32, sRefin := false,
    sRefout := false, configured := true, aPoly := 0x04C11DB7#32, aInit := 0xFFFFFFFF#32, aXor := 0#32, aRef := false,
    table := buildTable false 0x04C11DB7#32, crc := Vector.replicate 2 0xFFFFFFFF#32, pending := [], responses := [] }

/-- A 16-bit instance with one context and the given datapath, right after power-on. -/
def fresh16 (d : Datapath) : State :=
  State.powerOn { datapath := d, nctxM1 := 0, byteOrder := .big, ccitt16Init := 0xFFFF, ccitt16Xorout := 0xFFFF }
    (PowerOnContents.zero _)

/-- A closed-form instance on which the reflected polynomial 0x1021 is staged. -/
def closedReady : State :=
  { fresh16 .closed16 with cfg := (fresh16 .closed16).cfg, sPoly := 0x1021#16, sRefin := true, sRefout := true }

/-- The response to one command word. -/
def answer (cw : CommandWord) (s : State) : Option Response :=
  match execWord cw s with
  | .next t    => t.responses.getLast?
  | .fault _   => none
  | .refused _ => none

/-- `CRC[c]` after one command word. -/
def crcAfter (cw : CommandWord) (s : State) (c : Nat) : Option Data :=
  match execWord cw s with
  | .next t    => crcData t c
  | .fault _   => none
  | .refused _ => none

/-! ## Well-formedness: an ill-formed command for each check (30_encoding.md R73, R74; NCTX = 2, W = 32) -/

theorem test_illformed_context :
    (Instr.update 2 0x31).wellFormed Config.suggested = false ∧ (Instr.updatew 2 0 8 0).wellFormed Config.suggested = false ∧
    (Instr.reset 255).wellFormed Config.suggested = false ∧ (Instr.value 2).wellFormed Config.suggested = false ∧
    (Instr.seed 2 0).wellFormed Config.suggested = false := by decide

theorem test_illformed_operand :
    (Instr.setpoly 0x104C11DB7).wellFormed Config.suggested = false ∧
    (Instr.setinit 0x100000000).wellFormed Config.suggested = false ∧
    (Instr.setxor 0x8000000000000000).wellFormed Config.suggested = false ∧
    (Instr.seed 1 0x112345678).wellFormed Config.suggested = false ∧
    (Instr.reflect 0x100000000).wellFormed Config.suggested = false := by decide

theorem test_wellformed :
    (Instr.update 1 0x31).wellFormed Config.suggested = true ∧ (Instr.setpoly 0xFFFFFFFF).wellFormed Config.suggested = true ∧
    (Instr.seed 1 0xFFFFFFFF).wellFormed Config.suggested = true ∧ (Instr.table 255).wellFormed Config.suggested = true := by
  decide

/-! ## Decoding: each command's word written out from R70, R74, R76 as op, ctx, sel, arg -/

theorem test_decode_status : decode (0x01#8 ++ 0x00#8 ++ 0x00#8 ++ 0#64) = .instr .status := by decide +kernel
theorem test_decode_setpoly :
    decode (0x10#8 ++ 0x00#8 ++ 0x00#8 ++ 0x42F0E1EBA9EA3693#64) = .instr (.setpoly 0x42F0E1EBA9EA3693) := by decide +kernel
theorem test_decode_setinit : decode (0x11#8 ++ 0x00#8 ++ 0x00#8 ++ 0xFFFF#64) = .instr (.setinit 0xFFFF) := by decide +kernel
theorem test_decode_setxor : decode (0x12#8 ++ 0x00#8 ++ 0x00#8 ++ 0xFFFF#64) = .instr (.setxor 0xFFFF) := by decide +kernel
/-- `arg[0]` is reflectInput and `arg[1]` reflectOutput. -/
theorem test_decode_setref : decode (0x13#8 ++ 0x00#8 ++ 0x00#8 ++ 0b01#64) = .instr (.setref true false) := by decide +kernel
theorem test_decode_build : decode (0x14#8 ++ 0x00#8 ++ 0x00#8 ++ 0#64) = .instr .build := by decide +kernel
theorem test_decode_update : decode (0x20#8 ++ 0x01#8 ++ 0x00#8 ++ 0x31#64) = .instr (.update 1 0x31) := by decide +kernel
/-- `sel[7:4]` is the offset and `sel[3:0]` the count. -/
theorem test_decode_updatew :
    decode (0x21#8 ++ 0x00#8 ++ 0x54#8 ++ 0x3837363534333231#64) = .instr (.updatew 0 5 4 0x3837363534333231) := by
  decide +kernel
theorem test_decode_reset : decode (0x22#8 ++ 0xFF#8 ++ 0x00#8 ++ 0#64) = .instr (.reset 255) := by decide +kernel
theorem test_decode_value : decode (0x23#8 ++ 0x01#8 ++ 0x00#8 ++ 0#64) = .instr (.value 1) := by decide +kernel
theorem test_decode_seed : decode (0x24#8 ++ 0x01#8 ++ 0x00#8 ++ 0x12345678#64) = .instr (.seed 1 0x12345678) := by
  decide +kernel
theorem test_decode_table : decode (0x25#8 ++ 0x00#8 ++ 0x00#8 ++ 0xFF#64) = .instr (.table 255) := by decide +kernel
theorem test_decode_reflect : decode (0x30#8 ++ 0x00#8 ++ 0x00#8 ++ 0x1021#64) = .instr (.reflect 0x1021) := by decide +kernel

/-- Rows of 95 section 2.7 that no instance accepts. -/
theorem test_decode_rejects :
    decode 0x0200000000000000000000#88 = .illegal ∧ decode 0x1500000000000000000000#88 = .illegal ∧
    decode 0x2601000000000000000005#88 = .illegal ∧ decode 0x3100000000000000000000#88 = .illegal ∧
    decode 0x0101000000000000000000#88 = .operand ∧ decode 0x1000010000000000000001#88 = .operand ∧
    decode 0x1300000000000000000004#88 = .operand ∧ decode 0x2000000000000000000131#88 = .operand ∧
    decode 0x2201000000000000000001#88 = .operand ∧ decode 0x2501000000000000000001#88 = .operand := by decide +kernel

theorem test_table_word : decodeTableWord 88 0x2001000000000000000041 = some (.update 1 0x41) := by decide +kernel

/-- The six codes of 60_exceptions.md R190, in bits 67:64. -/
theorem test_response_word :
    ([.ok, .errConfig, .errRange, .errIllegal, .errOperand, .errNotconf].map fun st => (⟨st, 0xCBF43926⟩ : Response).word) =
      [0x000000000CBF43926#68, 0x100000000CBF43926#68, 0x200000000CBF43926#68, 0x300000000CBF43926#68, 0x400000000CBF43926#68,
       0x500000000CBF43926#68] := by decide +kernel

/-! ## One step per command -/

theorem test_status : answer 0x0100000000000000000000#88 State.reset = some ⟨.ok, 0x104⟩ := by decide +kernel
theorem test_status_configured : answer 0x0100000000000000000000#88 crc32 = some ⟨.ok, 0x107⟩ := by decide +kernel
theorem test_setpoly_wide : answer 0x1000000000000104C11DB7#88 crc32 = some ⟨.errOperand, 0⟩ := by decide +kernel
/-- 17 bits on a 16-bit instance (P5 step 10). -/
theorem test_setpoly_16 : answer 0x1000000000000000011021#88 (fresh16 .table16) = some ⟨.errOperand, 0⟩ := by decide +kernel
theorem test_setinit : answer 0x11000000000000FFFFFFFF#88 State.reset = some ⟨.ok, 0⟩ := by decide +kernel
theorem test_setxor : answer 0x1200000000000000000000#88 State.reset = some ⟨.ok, 0⟩ := by decide +kernel
theorem test_setref : answer 0x1300000000000000000001#88 State.reset = some ⟨.ok, 0⟩ := by decide +kernel
/-- P5 steps 13 and 14. -/
theorem test_build_mixed :
    answer 0x1400000000000000000000#88 { fresh16 .table16 with sRefin := true } = some ⟨.errConfig, 0⟩ := by decide +kernel
/-- After power-on every staging register is 0: BUILD succeeds and leaves the register 0 (P5 step 17). -/
theorem test_build_zero : answer 0x1400000000000000000000#88 (fresh16 .table16) = some ⟨.ok, 0⟩ ∧
    crcAfter 0x1400000000000000000000#88 (fresh16 .table16) 0 = some 0 := by decide +kernel
/-- A closed-form instance refuses the zero polynomial (R183). -/
theorem test_build_closed : answer 0x1400000000000000000000#88 (fresh16 .closed16) = some ⟨.errConfig, 0⟩ ∧
    answer 0x1400000000000000000000#88 closedReady = some ⟨.ok, 0⟩ := by decide +kernel
theorem test_update_reflected : crcAfter 0x2000000000000000000031#88 crc32 0 = some 0x7C231048 := by decide +kernel
theorem test_update_nonreflected : crcAfter 0x2001000000000000000031#88 bzip2 1 = some 0x9EFBCF93 := by decide +kernel
/-- Lanes 2, 3, 4 of the buffer (95 section 2.6). -/
theorem test_updatew : crcAfter 0x2100233837363534333231#88 crc32 0 = some 0xCB0A4AF0 := by decide +kernel
theorem test_updatew_range : answer 0x2100813837363534333231#88 crc32 = some ⟨.errRange, 0⟩ ∧
    answer 0x2100803837363534333231#88 crc32 = some ⟨.ok, 0⟩ := by decide +kernel
theorem test_reset : crcAfter 0x2201000000000000000000#88 crc32 1 = some 0xFFFFFFFF := by decide +kernel
/-- The empty message (95 section 2.4). -/
theorem test_value : answer 0x2300000000000000000000#88 crc32 = some ⟨.ok, 0⟩ ∧
    answer 0x2300000000000000000000#88 bzip2 = some ⟨.ok, 0⟩ := by decide +kernel
theorem test_value_unconfigured : answer 0x2300000000000000000000#88 State.reset = some ⟨.errNotconf, 0⟩ ∧
    answer 0x23FF000000000000000000#88 State.reset = some ⟨.errOperand, 0⟩ := by decide +kernel
theorem test_seed : crcAfter 0x2401000000000012345678#88 crc32 1 = some 0x12345678 := by decide +kernel
theorem test_table : answer 0x25000000000000000000FF#88 crc32 = some ⟨.ok, 0x2D02EF8D⟩ ∧
    answer 0x2500000000000000000100#88 crc32 = some ⟨.errOperand, 0⟩ := by decide +kernel
theorem test_reflect : answer 0x3000000000000000000001#88 State.reset = some ⟨.ok, 0x80000000⟩ ∧
    answer 0x3000000000000000001021#88 (fresh16 .table16) = some ⟨.ok, 0x8408⟩ := by decide +kernel

/-! ## The algorithms (95 sections 2.1, 2.2, 2.4) -/

theorem test_table_entries :
    tabEntry true 0x1EDC6F41#32 0x40 = 0x417B1DBC#32 ∧ tabEntry false 0x04C11DB7#32 0x80 = 0x690CE0EE#32 ∧
    tabEntry true 0x42F0E1EBA9EA3693#64 0x01 = 0xB32E4CBE03A75F6F#64 ∧ tabEntry false 0x1021#16 0xFF = 0x1EF0#16 := by
  decide +kernel

/-- The shift drops the top byte; at W = 64 the index is bits 63:56. -/
theorem test_update_corners :
    upd false 0xFFFFFFFF#32 0xFF (buildTable false 0x04C11DB7#32) = 0xFFFFFF00#32 ∧
    upd false 0x0123456789ABCDEF#64 0x55 (buildTable false 0x42F0E1EBA9EA3693#64) = 0xD64E7B26DF02A71F#64 ∧
    upd true 0x1234#16 0x56 (buildTable true 0x1021#16) = 0x4006#16 := by decide +kernel

theorem test_closed_update : closedUpdate 0x1234 0x56 = 0x4006 ∧ closedUpdate 0xFFFF 0x31 = 0x2F8D := by decide +kernel

theorem test_finalization :
    zext64 (fin false 0x12345678#32 0x0F0F0F0F#32) = 0xE2C4A688 ∧ zext64 (fin false 0x0000#16 0x0000#16) = 0xFFFF ∧
    zext64 (fin true 0x340BC6D9#32 0xFFFFFFFF#32) = 0xCBF43926 := by decide +kernel

/-- The value the rules give for a message under a row of the catalogue. -/
def rowValue (w : Nat) (p : Preset) (bytes : List Byte) : BitVec w :=
  fin p.ref (fold p.ref (p.sInit.setWidth w) bytes (buildTable p.ref (p.sPoly.setWidth w))) (p.sXor.setWidth w)

/-- The columns "check" and "second" of 44_catalog.md R161, W = 32. -/
theorem test_catalogue32 :
    (catalog32.map fun p => (rowValue 32 p checkMessage, rowValue 32 p secondMessage)) =
      [(0xCBF43926, 0x6C6E13DC), (0x1697D06A, 0xDCA579C1), (0xFC891918, 0x292C603E), (0xE3069283, 0x29AF14D2),
       (0x87315576, 0x74276C40), (0x0376E6E7, 0xD6D39FC1), (0x765E7680, 0xA3FB0FA6), (0x3010BF7F, 0x5CC6D333)] := by
  decide +kernel

/-- The same, W = 64. -/
theorem test_catalogue64 :
    (catalog64.map fun p => (rowValue 64 p checkMessage, rowValue 64 p secondMessage)) =
      [(0x995DC9BBDF1939FA, 0x80970A490043D6B4), (0x62EC59E3F1A4F00A, 0xB20D3054F9147D5D),
       (0x6C40DF5F0B497347, 0xBCA1B6E803F9FE10)] := by
  decide +kernel

/-- The 16-bit parameter sets of 95 section 2.3 on "123456789". -/
theorem test_ccitt16 :
    fold true 0x0000#16 checkMessage (buildTable true 0x1021#16) = 0x2189#16 ∧
    fold true 0xFFFF#16 checkMessage (buildTable true 0x1021#16) = 0x6F91#16 ∧
    fold false 0xFFFF#16 checkMessage (buildTable false 0x1021#16) = 0x29B1#16 := by decide +kernel

theorem test_serialise :
    ser 0xCBF43926#32 .little = [0x26, 0x39, 0xF4, 0xCB] ∧ ser 0xCBF43926#32 .big = [0xCB, 0xF4, 0x39, 0x26] ∧
    deser 32 [0xCB, 0xF4, 0x39, 0x26] .big = 0xCBF43926#32 := by decide +kernel

/-- 93 U7: 8-bit and 24-bit widths, NCTX = 0 and 257, and the closed form at another width are no instances. -/
theorem test_elaborate :
    Config.elaborate 8 1 .little false 0 0 = none ∧ Config.elaborate 24 1 .little false 0 0 = none ∧
    Config.elaborate 32 0 .little false 0 0 = none ∧ Config.elaborate 32 257 .little false 0 0 = none ∧
    Config.elaborate 32 1 .little true 0 0 = none ∧ (Config.elaborate 16 256 .little true 0 0).isSome = true := by decide

/-! ## Witnesses: for each statement with hypotheses, a state and operands that meet them, clause by clause -/

/-- The test engine has the invariant, with CONFIGURED = 1. -/
theorem crc32_inv : crc32.Inv ∧ crc32.configured = true :=
  ⟨fun _ => ⟨fun i => readEntry_buildTable true 0x04C11DB7#32 i, fun h => absurd h (by decide)⟩, rfl⟩

/-- `crc32` with one command word presented. -/
def presented (cw : CommandWord) : State := { crc32 with pending := [cw] }

theorem witness_ResponseWordLayout :
    (∃ cw s t r, execWord cw s = .next t ∧ t.responses = s.responses ++ [r] ∧ r.status ≠ .ok) ∧
    (∃ cw s t r i, execWord cw s = .next t ∧ t.responses = s.responses ++ [r] ∧ decode cw = .instr i ∧ hasResult i = false) :=
  ⟨⟨0, crc32, _, ⟨.errIllegal, 0⟩, execWord_of_illegal _ (by decide +kernel), rfl, by decide⟩,
   ⟨encode .build, State.reset, respond (installEngine State.reset) .ok 0, ⟨.ok, 0⟩, .build,
    execWord_of_instr (i := .build) _ (by decide +kernel), rfl, by decide +kernel, rfl⟩⟩

theorem witness_EncodeOfDecode : ∃ cw i, decode cw = .instr i := ⟨0x21FFFF0000000000000000#88, .updatew 255 15 15 0, by decide +kernel⟩

theorem witness_IllegalOpcodes : legalOp ((0x260100 : CommandWord).extractLsb' 80 8) = false ∧
    legalOp ((BitVec.allOnes 88).extractLsb' 80 8) = false := by decide +kernel

theorem witness_OperandErrors :
    (legalOp (splitWord 0x2002000000000000000031#88).op = true ∧
      fieldsAllowed Config.suggested (splitWord 0x2002000000000000000031#88) = false) ∧
    (legalOp (splitWord 0x2401000000000112345678#88).op = true ∧
      fieldsAllowed Config.suggested (splitWord 0x2401000000000112345678#88) = false) ∧
    fieldsAllowed Config.suggested (splitWord 0x20010000000000000000FF#88) = true := by decide +kernel

theorem witness_StatusIsDetermined :
    (∃ s t : State, s.cfg.w = t.cfg.w ∧ s.cfg.nctx = t.cfg.nctx ∧ s.cfg.closedForm = t.cfg.closedForm ∧
      s.configured = t.configured ∧ s.sRefin = t.sRefin ∧ s.sRefout = t.sRefout ∧
      (s.cfg.closedForm = true → s.sPoly.toNat = t.sPoly.toNat) ∧ s.sPoly.toNat ≠ t.sPoly.toNat) ∧
    (∃ s t : State, s.cfg.w = t.cfg.w ∧ s.cfg.nctx = t.cfg.nctx ∧ s.cfg.closedForm = t.cfg.closedForm ∧
      s.configured = t.configured ∧ s.sRefin = t.sRefin ∧ s.sRefout = t.sRefout ∧
      (s.cfg.closedForm = true → s.sPoly.toNat = t.sPoly.toNat) ∧ s.cfg.closedForm = true) :=
  ⟨⟨crc32, { crc32 with sPoly := 0#32 }, by decide⟩, ⟨closedReady, { closedReady with sInit := 1#16 }, by decide⟩⟩

theorem witness_ErrorsWriteNothing :
    ∃ cw s t st d, execWord cw s = .next t ∧ t.responses = s.responses ++ [⟨st, d⟩] ∧ st ≠ .ok :=
  ⟨0, crc32, _, .errIllegal, 0, execWord_of_illegal _ (by decide +kernel), rfl, by decide⟩

theorem witness_EveryStepAnswers : ∃ (s : State) (cw : CommandWord) (rest : List CommandWord), s.pending = cw :: rest :=
  ⟨presented 0, 0, [], rfl⟩

theorem witness_StepRunsDecodedCommand : (∃ s : State, s.pending = []) ∧
    (∃ (s : State) (cw : CommandWord) (rest : List CommandWord) (i : Instr), s.pending = cw :: rest ∧ decode cw = .instr i) ∧
    (∃ nbits w i, decodeTableWord nbits w = some i) :=
  ⟨⟨crc32, rfl⟩, ⟨presented 0x2200000000000000000000#88, _, [], .reset 0, rfl, by decide +kernel⟩,
   ⟨88, 0x1400000000000000000000, .build, by decide +kernel⟩⟩

theorem witness_ParametersFixed : ∃ s t : State, step s = .next t := ⟨crc32, crc32, step_nil _ rfl⟩

/-- BUILD as the only word presented to an instance right after power-on. -/
theorem step_build : step { State.reset with pending := [0x1400000000000000000000#88] } =
    .next (respond (installEngine State.reset) .ok 0) :=
  (step_cons _ _ [] rfl).trans (execWord_of_instr (i := .build) _ (by decide +kernel))

theorem witness_WriteMatrix : ∃ i s t, exec i s = .next t :=
  ⟨.update 1 0x31, crc32, exec_answers _ _⟩

theorem witness_ConfiguredFlag :
    (∃ s t : State, step s = .next t ∧ s.configured = true) ∧
    (∃ s t : State, step s = .next t ∧ s.configured = false ∧ t.configured = true) ∧
    (∃ (i : Instr) (s : State), s.configured = false ∧ needsConfigured (opcode i) = true ∧ i.wellFormed s.cfg = true) ∧
    (∃ (i : Instr) (s t : State) (d : Data), exec i s = .next t ∧ t.responses = s.responses ++ [⟨.errNotconf, d⟩]) :=
  ⟨⟨crc32, crc32, step_nil _ rfl, rfl⟩, ⟨_, _, step_build, rfl, rfl⟩, ⟨.update 1 0, State.reset, by decide⟩,
   ⟨.table 0, State.reset, respond State.reset .errNotconf 0, 0, rfl, rfl⟩⟩

/-- BUILD as the only word presented to a built engine with unequal reflection bits staged. -/
def mixedPresented : State := { crc32 with sRefout := false, pending := [0x1400000000000000000000#88] }

theorem step_mixed : step mixedPresented = .next (raise { mixedPresented with pending := [] } .errConfig) :=
  (step_cons _ _ [] rfl).trans (execWord_of_instr (i := .build) _ (by decide +kernel))

theorem witness_ActiveSetOnlyByBuild :
    (∃ (s t : State) (cw : CommandWord) (rest : List CommandWord), s.pending = cw :: rest ∧ step s = .next t ∧
      decode cw = .instr .build ∧ stagedRefused s = false) ∧
    (∃ (s t : State) (cw : CommandWord) (rest : List CommandWord), s.pending = cw :: rest ∧ step s = .next t ∧
      decode cw ≠ .instr .build) ∧
    (∃ (s t : State) (cw : CommandWord) (rest : List CommandWord), s.pending = cw :: rest ∧ step s = .next t ∧
      decode cw = .instr .build ∧ stagedRefused s = true ∧ s.configured = true) :=
  ⟨⟨_, _, 0x1400000000000000000000#88, [], rfl, step_build, by decide +kernel, by decide⟩,
   ⟨presented 0, _, 0, [], rfl, (step_cons _ _ [] rfl).trans (execWord_of_illegal _ (by decide +kernel)), by decide +kernel⟩,
   ⟨mixedPresented, _, _, [], rfl, step_mixed, by decide +kernel, by decide, rfl⟩⟩

theorem witness_EngineInvariantKept : ∃ s t : State, s.Inv ∧ s.configured = true ∧ step s = .next t :=
  ⟨presented 0, _, crc32_inv.1, rfl, (step_cons _ _ [] rfl).trans (execWord_of_illegal _ (by decide +kernel))⟩

theorem witness_PowerOnContentsUnobservable : ∃ s t : State, SameSpecified s t ∧ crcData s 0 ≠ crcData t 0 :=
  ⟨State.reset, _, .inr ⟨rfl, ⟨⟨0, 0, 0, true, buildTable true 1, Vector.replicate _ 7⟩, rfl⟩⟩, by decide +kernel⟩

/-- A BUILD that changes both registers of `bzip2`. -/
def rebuilt : State := { bzip2 with sInit := 0#32 }

theorem witness_RegisterExclusivity :
    (∃ (i : Instr) (c : BitVec 8) (s t : State) (d : Nat), d < s.cfg.nctx ∧ addressed i = some c ∧ c.toNat ≠ d ∧
      exec i s = .next t) ∧
    (∃ (i : Instr) (s t : State) (d e : Nat), exec i s = .next t ∧ d ≠ e ∧ crcData t d ≠ crcData s d ∧
      crcData t e ≠ crcData s e) ∧
    (∃ s t : State, exec .build s = .next t ∧ stagedRefused s = false ∧ 1 < s.cfg.nctx) :=
  let ⟨t, h⟩ := exec_answers crc32 (.update 1 0x31)
  ⟨⟨.update 1 0x31, 1, crc32, t, 0, by decide, rfl, by decide, h⟩,
   ⟨.build, rebuilt, respond (installEngine rebuilt) .ok 0, 0, 1, rfl, by decide, by decide +kernel, by decide +kernel⟩,
   ⟨rebuilt, respond (installEngine rebuilt) .ok 0, rfl, by decide, by decide⟩⟩

theorem witness_CloneIndependence : ∃ (cmds : List Instr) (a b : BitVec 8) (s t : State),
    cmds ≠ [] ∧ (∀ i ∈ cmds, addressed i = some a) ∧ b ≠ a ∧ execAll cmds s = .next t :=
  let ⟨t, h⟩ := execAll_answers crc32 [.update 0 0x31, .reset 0]
  ⟨[.update 0 0x31, .reset 0], 0, 1, crc32, t, by decide, by decide, by decide, h⟩

theorem witness_StagingReadByBuildOnly : ∃ (i : Instr) (s t : State), i ≠ .build ∧ exec i s = .next t :=
  let ⟨t, h⟩ := exec_answers crc32 (.table 255)
  ⟨.table 255, crc32, t, by decide, h⟩

theorem witness_BuildAfterPowerOn :
    (∃ (cfg : Config) (c : BitVec 8), cfg.closedForm = false ∧ c.toNat < cfg.nctx) ∧ (∃ cfg : Config, cfg.closedForm = true) :=
  ⟨⟨Config.suggested, 1, by decide⟩, ⟨closedReady.cfg, rfl⟩⟩

/-- The boundary of a W-bit operand at W = 32, for SETPOLY, SETINIT, SETXOR and REFLECT. -/
theorem witness_operand : (0xFFFFFFFF : Data).toNat < 2 ^ crc32.cfg.w ∧ 2 ^ crc32.cfg.w ≤ (0x100000000 : Data).toNat := by decide

theorem witness_SetpolyEffect : (∃ (s : State) (imm : Data), imm.toNat < 2 ^ s.cfg.w) ∧
    (∃ (s : State) (ctx sel : BitVec 8) (arg : Data), ctx ≠ 0 ∨ sel ≠ 0 ∨ 2 ^ s.cfg.w ≤ arg.toNat) :=
  ⟨⟨crc32, 0xFFFFFFFF, by decide⟩, ⟨crc32, 0, 0, 0x100000000, by decide⟩⟩

theorem witness_SetinitEffect : (∃ (s : State) (imm : Data), imm.toNat < 2 ^ s.cfg.w) ∧
    (∃ (s : State) (ctx sel : BitVec 8) (arg : Data), ctx ≠ 0 ∨ sel ≠ 0 ∨ 2 ^ s.cfg.w ≤ arg.toNat) :=
  ⟨⟨fresh16 .table16, 0xFFFF, by decide⟩, ⟨fresh16 .table16, 0, 0, 0x10000, by decide⟩⟩

theorem witness_SetxorEffect : (∃ (s : State) (imm : Data), imm.toNat < 2 ^ s.cfg.w) ∧
    (∃ (s : State) (ctx sel : BitVec 8) (arg : Data), ctx ≠ 0 ∨ sel ≠ 0 ∨ 2 ^ s.cfg.w ≤ arg.toNat) :=
  ⟨⟨crc32, 0xFFFFFFFF, by decide⟩, ⟨crc32, 0, 1, 0, by decide⟩⟩

theorem witness_SetrefEffect : (3 : Data).toNat < 4 ∧
    ((0 : BitVec 8) ≠ 0 ∨ (0 : BitVec 8) ≠ 0 ∨ 4 ≤ (4 : Data).toNat) := by decide

theorem witness_BuildEffect :
    (∃ s : State, s.sRefin = s.sRefout ∧ (s.cfg.closedForm = true → s.sRefin = true ∧ s.sPoly.toNat = 0x1021) ∧
      s.configured = true) ∧
    (∃ s : State, s.sRefin = s.sRefout ∧ (s.cfg.closedForm = true → s.sRefin = true ∧ s.sPoly.toNat = 0x1021) ∧
      s.cfg.closedForm = true) ∧
    (∃ s : State, s.sRefin ≠ s.sRefout ∨ (s.cfg.closedForm = true ∧ ¬ (s.sRefin = true ∧ s.sPoly.toNat = 0x1021))) ∧
    (∃ ctx sel : BitVec 8, ∃ arg : Data, ctx ≠ 0 ∨ sel ≠ 0 ∨ arg ≠ 0) :=
  ⟨⟨crc32, by decide⟩, ⟨closedReady, by decide⟩, ⟨{ closedReady with sPoly := 0x1020#16 }, by decide⟩, ⟨0, 0, 1, by decide⟩⟩

theorem witness_BuildRefusals :
    (∃ s : State, s.sRefin ≠ s.sRefout ∧ s.configured = true) ∧
    (∃ s : State, s.cfg.closedForm = true ∧ ¬ (s.sPoly.toNat = 0x1021 ∧ s.sRefin = true ∧ s.sRefout = true)) ∧
    (∃ (cw : CommandWord) (s t : State) (d : Data), execWord cw s = .next t ∧
      t.responses = s.responses ++ [⟨.errConfig, d⟩]) :=
  ⟨⟨{ crc32 with sRefout := false }, by decide⟩, ⟨{ closedReady with sPoly := 0x1020#16 }, by decide⟩,
   ⟨encode .build, fresh16 .closed16, respond (fresh16 .closed16) .errConfig 0, 0,
    execWord_of_instr (i := .build) _ (by decide +kernel), rfl⟩⟩

theorem witness_UpdateEffect :
    (∃ (s : State) (c : BitVec 8), c.toNat < s.cfg.nctx ∧ s.configured = true) ∧
    (∃ (s : State) (ctx sel : BitVec 8) (arg : Data), s.cfg.nctx ≤ ctx.toNat ∨ sel ≠ 0 ∨ 256 ≤ arg.toNat) ∧
    (∃ (s : State) (c : BitVec 8), c.toNat < s.cfg.nctx ∧ s.configured = false) :=
  ⟨⟨crc32, 1, by decide⟩, ⟨crc32, 2, 0, 255, by decide⟩, ⟨State.reset, 1, by decide⟩⟩

theorem witness_UpdatewEffect :
    (∃ (s : State) (c : BitVec 8) (o n : BitVec 4), c.toNat < s.cfg.nctx ∧ s.configured = true ∧ o.toNat + n.toNat = 8 ∧
      n.toNat = 8) ∧
    (∃ (s : State) (c : BitVec 8) (o : BitVec 4), c.toNat < s.cfg.nctx ∧ s.configured = true ∧ o.toNat = 8) ∧
    (∃ o : BitVec 4, o.toNat < 8) ∧
    (∃ (s : State) (c : BitVec 8) (o n : BitVec 4), c.toNat < s.cfg.nctx ∧ s.configured = true ∧ o.toNat + n.toNat = 9) ∧
    (∃ (s : State) (c : BitVec 8), s.cfg.nctx ≤ c.toNat) ∧
    (∃ (s : State) (c : BitVec 8), c.toNat < s.cfg.nctx ∧ s.configured = false) :=
  ⟨⟨crc32, 0, 0, 8, by decide⟩, ⟨crc32, 0, 8, by decide⟩, ⟨7, by decide⟩, ⟨crc32, 0, 8, 1, by decide⟩, ⟨crc32, 2, by decide⟩,
   ⟨State.reset, 1, by decide⟩⟩

theorem witness_ResetEffect :
    (∃ (s : State) (c : BitVec 8), c.toNat < s.cfg.nctx ∧ s.configured = true) ∧
    (∃ (s : State) (ctx sel : BitVec 8) (arg : Data), s.cfg.nctx ≤ ctx.toNat ∨ sel ≠ 0 ∨ arg ≠ 0) ∧
    (∃ (s : State) (c : BitVec 8), c.toNat < s.cfg.nctx ∧ s.configured = false) :=
  ⟨⟨crc32, 1, by decide⟩, ⟨crc32, 1, 0, 1, by decide⟩, ⟨State.reset, 1, by decide⟩⟩

theorem witness_ValueEffect :
    (∃ (s : State) (c : BitVec 8), c.toNat < s.cfg.nctx ∧ s.configured = true) ∧
    (∃ (s : State) (ctx sel : BitVec 8) (arg : Data), s.cfg.nctx ≤ ctx.toNat ∨ sel ≠ 0 ∨ arg ≠ 0) ∧
    (∃ (s : State) (c : BitVec 8), c.toNat < s.cfg.nctx ∧ s.configured = false) :=
  ⟨⟨bzip2, 1, by decide⟩, ⟨crc32, 255, 0, 0, by decide⟩, ⟨State.reset, 0, by decide⟩⟩

/-- Commands that write no `CRC[1]`: a SEED that is refused, another context's UPDATE, an empty UPDATEW, a staging write. -/
def between : List Instr := [.seed 1 0x100000000, .update 0 0x31, .updatew 1 8 0 0, .setxor 0]

theorem witness_ValueIsPureRead :
    (∃ (s : State) (c : BitVec 8) (t : State), c.toNat < s.cfg.nctx ∧ s.configured = true ∧ NoWriteTo c between s ∧
      execAll between s = .next t) ∧
    (∃ (s t : State) (after : List Instr), after ≠ [] ∧ execAll after s = .next t) :=
  let ⟨t, h⟩ := execAll_answers crc32 between
  ⟨⟨crc32, 1, t, by decide, rfl,
     ⟨.inr ⟨.errOperand, by decide, rfl⟩, fun _ _ => ⟨.inl ⟨rfl, by decide⟩, fun _ _ => ⟨.inl ⟨rfl, by decide⟩, fun _ _ =>
       ⟨.inl ⟨rfl, rfl⟩, fun _ _ => trivial⟩⟩⟩⟩, h⟩,
   ⟨crc32, t, between, by decide, h⟩⟩

theorem witness_SeedEffect :
    (∃ (s : State) (c : BitVec 8) (imm : Data), c.toNat < s.cfg.nctx ∧ imm.toNat < 2 ^ s.cfg.w ∧ s.configured = true) ∧
    (∃ (s : State) (ctx sel : BitVec 8) (arg : Data), s.cfg.nctx ≤ ctx.toNat ∨ sel ≠ 0 ∨ 2 ^ s.cfg.w ≤ arg.toNat) ∧
    (∃ (s : State) (c : BitVec 8) (imm : Data), c.toNat < s.cfg.nctx ∧ imm.toNat < 2 ^ s.cfg.w ∧ s.configured = false) :=
  ⟨⟨crc32, 1, 0xFFFFFFFF, by decide⟩, ⟨crc32, 1, 0, 0x100000000, by decide⟩, ⟨State.reset, 1, 0, by decide⟩⟩

theorem witness_TableEffect : (∃ s : State, s.Inv ∧ s.configured = true) ∧
    (∃ (ctx sel : BitVec 8) (arg : Data), ctx ≠ 0 ∨ sel ≠ 0 ∨ 256 ≤ arg.toNat) ∧ (∃ s : State, s.configured = false) :=
  ⟨⟨crc32, crc32_inv⟩, ⟨0, 0, 256, by decide⟩, ⟨State.reset, rfl⟩⟩

theorem witness_StatusEffect : ∃ (ctx sel : BitVec 8) (arg : Data), ctx ≠ 0 ∨ sel ≠ 0 ∨ arg ≠ 0 := ⟨0, 0, 1, by decide⟩

theorem witness_ReflectEffect : (∃ (s : State) (imm : Data), imm.toNat < 2 ^ s.cfg.w) ∧
    (∃ (s : State) (ctx sel : BitVec 8) (arg : Data), ctx ≠ 0 ∨ sel ≠ 0 ∨ 2 ^ s.cfg.w ≤ arg.toNat) :=
  ⟨⟨fresh16 .closed16, 0xFFFF, by decide⟩, ⟨fresh16 .closed16, 0, 0, 0x10000, by decide⟩⟩

/-- EntryArithmetic, TableCorners, UpdateArithmetic and UpdateIsBitSerialDivision ask for a width of at least 8 only. -/
theorem witness_width : 8 ≤ 8 ∧ 8 ≤ Config.suggested.w := by decide

theorem witness_TableLaws : ∃ (s t u : State) (n x : BitVec s.cfg.w), exec .build s = .next t ∧
    exec .build { s with sInit := n, sXor := x } = .next u ∧ s.sRefin = s.sRefout ∧
    (s.cfg.closedForm = true → s.sRefin = true ∧ s.sPoly.toNat = 0x1021) ∧ n ≠ s.sInit :=
  ⟨bzip2, _, _, 0#32, 0xFFFFFFFF#32, rfl, rfl, rfl, by decide, by show (0#32) ≠ 0xFFFFFFFF#32; decide⟩

theorem witness_ChunkingEquivalence : ∃ (cmds : List Instr) (c : BitVec 8) (s t : State), c.toNat < s.cfg.nctx ∧
    s.configured = true ∧ (∀ i ∈ cmds, interrupts c i = false) ∧ execAll cmds s = .next t ∧
    cmds.flatMap (delivered c) = [0x31, 0x32] :=
  let ⟨t, h⟩ := execAll_answers crc32 [.updatew 0 0 1 0x31, .reset 1, .setref false true, .update 0 0x32]
  ⟨_, 0, crc32, t, by decide, rfl, by decide, h, by decide⟩

theorem witness_ResetAndEmptyMessage :
    (∃ (s t u : State) (c : BitVec 8), exec (.reset c) s = .next t ∧ exec (.reset c) t = .next u) ∧
    (∃ (s : State) (c : BitVec 8), c.toNat < s.cfg.nctx ∧ s.configured = true) ∧
    (∃ (s : State) (c : BitVec 8), c.toNat < s.cfg.nctx ∧ stagedRefused s = false) :=
  let ⟨t, h⟩ := exec_answers crc32 (.reset 0)
  let ⟨u, g⟩ := exec_answers t (.reset 0)
  ⟨⟨crc32, t, u, 0, h, g⟩, ⟨crc32, 1, by decide⟩, ⟨State.reset, 1, by decide⟩⟩

theorem witness_CopyRunningState : ∃ (s : State) (a b : BitVec 8) (v : BitVec s.cfg.w), a.toNat < s.cfg.nctx ∧
    b.toNat < s.cfg.nctx ∧ s.configured = true ∧
    exec (.value a) s = .next { s with responses := s.responses ++ [⟨.ok, zext64 v⟩] } :=
  ⟨crc32, 0, 1, fin true 0xFFFFFFFF#32 0xFFFFFFFF#32, by decide, by decide, rfl, rfl⟩

theorem witness_ReflectBits : (15 : Nat) < 16 := by decide

theorem witness_ClosedFormBuild :
    (∃ s : State, s.cfg.closedForm = true ∧ s.sPoly.toNat = 0x1021 ∧ s.sRefin = true ∧ s.sRefout = true) ∧
    (∃ s : State, s.cfg.closedForm = true ∧ ¬ (s.sPoly.toNat = 0x1021 ∧ s.sRefin = true ∧ s.sRefout = true)) ∧
    (∃ s : State, s.Inv ∧ s.cfg.closedForm = true ∧ s.configured = true) ∧
    (∃ s : State, s.cfg.closedForm = false ∧ s.sRefin = s.sRefout) :=
  ⟨⟨closedReady, by decide⟩, ⟨{ closedReady with sRefout := false }, by decide⟩,
   ⟨installEngine closedReady, fun _ => ⟨fun i => readEntry_buildTable true 0x1021#16 i, fun _ => ⟨rfl, rfl⟩⟩, rfl, rfl⟩,
   ⟨crc32, by decide⟩⟩

theorem witness_ClosedFormInterchangeable : ∃ (i : Instr) (s t : State), i = .build ∧
    s.sPoly.toNat = 0x1021 ∧ s.sRefin = true ∧ s.sRefout = true ∧ s.cfg.closedForm = true ∧ exec i s = .next t :=
  ⟨.build, closedReady, _, rfl, by decide, rfl, rfl, rfl, rfl⟩

theorem witness_SerialRoundTrip : 3 < Config.suggested.w / 8 ∧ ([1, 2, 3, 4] : List Byte).length = Config.suggested.w / 8 := by
  decide

theorem witness_ElaborationLegal : ∃ c, Config.elaborate 16 256 .big true 0xFFFF 0 = some c := ⟨_, rfl⟩

theorem witness_StatedValuesReproduced :
    (∃ (s : State) (c : BitVec 8) (v : StatedValue), v ∈ statedValues ∧ v.preset.width = s.cfg.w ∧ c.toNat < s.cfg.nctx) ∧
    (∃ (s : State) (c : BitVec 8) (v : StatedValue), v ∈ statedValues ∧ v.preset.width = 64 ∧ v.preset.width = s.cfg.w ∧
      c.toNat < s.cfg.nctx) :=
  ⟨⟨crc32, 1, statedValues[10], by decide, by decide, by decide⟩,
   ⟨State.powerOn { Config.suggested with datapath := .table64 } (PowerOnContents.zero _), 1, statedValues[5], by decide,
    by decide, by decide, by decide⟩⟩

theorem witness_PresetInstalls :
    (∃ (s : State) (p : Preset), p ∈ catalog s.cfg ∧ p.width = s.cfg.w ∧ s.cfg.closedForm = true) ∧
    (∃ (s : State) (p : Preset), p ∈ catalog s.cfg ∧ p.width = s.cfg.w ∧ p.name = "CRC-32/MPEG-2") ∧ 64 ≤ 64 :=
  ⟨⟨closedReady, ccitt16Preset 0xFFFF 0xFFFF, by decide⟩,
   ⟨crc32, presetRow "CRC-32/MPEG-2" 32 0x04C11DB7 0xFFFFFFFF false 0x00000000, by decide⟩, by decide⟩

theorem witness_HashComputes : ∃ (s : State) (c : BitVec 8), c.toNat < s.cfg.nctx ∧ s.configured = true :=
  ⟨crc32, 1, by decide⟩

end Sys2Proof.Tests
end

section
/-! Proofs of the statements of 00_scope.md: the parameters never change, and exactly the legal sets
of them are elaborated. -/

/-! ## No step changes a parameter -/

namespace Sys2Proof.Machine

variable (s : State)

/-- The frame of every command: whatever it answers, the parameters are those it found. -/
theorem exec_keeps_cfg (i : Instr) : ∃ t, exec i s = .next t ∧ t.cfg = s.cfg := by
  cases i with
  | status => exact ⟨_, rfl, rfl⟩
  | setpoly imm =>
    obtain h | ⟨_, h⟩ := execSetpoly_cases s imm <;> exact ⟨_, h, rfl⟩
  | setinit imm =>
    obtain h | ⟨_, h⟩ := execSetinit_cases s imm <;> exact ⟨_, h, rfl⟩
  | setxor imm =>
    obtain h | ⟨_, h⟩ := execSetxor_cases s imm <;> exact ⟨_, h, rfl⟩
  | setref rin rout => exact ⟨_, rfl, rfl⟩
  | build =>
    obtain ⟨-, h⟩ | ⟨-, h⟩ := execBuild_cases s <;> exact ⟨_, h, rfl⟩
  | update c b =>
    obtain ⟨_, -, h⟩ | ⟨_, -, h⟩ := execUpdate_cases s c b <;> exact ⟨_, h, rfl⟩
  | updatew c o n buf =>
    obtain ⟨_, -, h⟩ | ⟨_, -, -, h⟩ := execUpdatew_cases s c o n buf <;> exact ⟨_, h, rfl⟩
  | reset c =>
    obtain ⟨_, -, h⟩ | ⟨_, -, h⟩ := execReset_cases s c <;> exact ⟨_, h, rfl⟩
  | value c =>
    obtain ⟨_, -, h⟩ | ⟨_, -, h⟩ := execValue_cases s c <;> exact ⟨_, h, rfl⟩
  | seed c imm =>
    obtain ⟨_, -, h⟩ | ⟨_, -, -, h⟩ := execSeed_cases s c imm <;> exact ⟨_, h, rfl⟩
  | table i =>
    obtain ⟨_, -, h⟩ | ⟨-, h⟩ := execTable_cases s i <;> exact ⟨_, h, rfl⟩
  | reflect imm =>
    obtain ⟨_, -, h⟩ | ⟨-, h⟩ := execReflect_cases s imm <;> exact ⟨_, h, rfl⟩

/-- A command word keeps the parameters, whether it is a command or is answered with an error. -/
theorem execWord_keeps_cfg (cw : CommandWord) : ∃ t, execWord cw s = .next t ∧ t.cfg = s.cfg := by
  cases hd : decode cw with
  | instr i => rw [execWord_of_instr s hd]; exact exec_keeps_cfg s i
  | illegal => exact ⟨_, execWord_of_illegal s hd, rfl⟩
  | operand => exact ⟨_, execWord_of_operand s hd, rfl⟩

theorem step_keeps_cfg : ∃ t, step s = .next t ∧ t.cfg = s.cfg := by
  cases hp : s.pending with
  | nil => exact ⟨s, step_nil s hp, rfl⟩
  | cons cw rest => rw [step_cons s cw rest hp]; exact execWord_keeps_cfg _ cw

/-- Settles O13: the frame of a step, from that of every command and of the two decoding errors. -/
theorem parametersFixed : Obligations.ParametersFixed := by
  intro s t hst
  obtain ⟨u, hsu, hcfg⟩ := step_keeps_cfg s
  cases hst.symm.trans hsu
  exact hcfg

end Sys2Proof.Machine

/-! ## Elaboration -/

namespace Sys2Proof

/-- The closed form is a datapath of its own (R8). -/
theorem Config.closedForm_eq_decide (c : Config) : c.closedForm = decide (c.datapath = .closed16) := by
  rcases c with ⟨d, _, _, _, _⟩
  cases d <;> rfl

/-- The datapath of a width and an option is the one with that width and that option (R5, R8). -/
theorem Datapath.elaborate_eq_some_iff {width : Nat} {closed : Bool} {d : Datapath} :
    Datapath.elaborate width closed = some d ↔ d.bits = width ∧ decide (d = .closed16) = closed := by
  constructor
  · intro h
    unfold Datapath.elaborate at h
    split at h <;> cases h <;> exact ⟨rfl, rfl⟩
  · rintro ⟨rfl, rfl⟩
    cases d <;> rfl

/-- A datapath exists for the three widths, with the closed form at W = 16 only (R5, R8). -/
theorem Datapath.exists_elaborate_iff {width : Nat} {closed : Bool} :
    (∃ d, Datapath.elaborate width closed = some d) ↔
      (width = 16 ∨ width = 32 ∨ width = 64) ∧ (closed = true → width = 16) := by
  simp only [Datapath.elaborate_eq_some_iff]
  constructor
  · rintro ⟨d, rfl, rfl⟩
    cases d <;> decide
  · rintro ⟨rfl | rfl | rfl, hc⟩ <;> cases closed
    · exact ⟨.table16, rfl, rfl⟩
    · exact ⟨.closed16, rfl, rfl⟩
    · exact ⟨.table32, rfl, rfl⟩
    · exact absurd (hc rfl) (by decide)
    · exact ⟨.table64, rfl, rfl⟩
    · exact absurd (hc rfl) (by decide)

section

variable {width nctx : Nat} {order : ByteOrder} {closed : Bool} {init xorout : BitVec 16}

/-- What elaboration answers: NCTX in range, and the parameters asked for on the datapath of the width and the option. -/
theorem Config.elaborate_eq_some_iff {c : Config} : Config.elaborate width nctx order closed init xorout = some c ↔
    (1 ≤ nctx ∧ nctx ≤ 256) ∧ ∃ d, Datapath.elaborate width closed = some d ∧
      { datapath := d, nctxM1 := BitVec.ofNat 8 (nctx - 1), byteOrder := order,
        ccitt16Init := init, ccitt16Xorout := xorout } = c := by
  by_cases hn : 1 ≤ nctx ∧ nctx ≤ 256 <;> simp [Config.elaborate, hn]

/-- `NCTX - 1` in 8 bits stands for every NCTX in 1..256 (R6). -/
theorem toNat_ofNat_pred_add_one (h : 1 ≤ nctx ∧ nctx ≤ 256) : (BitVec.ofNat 8 (nctx - 1)).toNat + 1 = nctx := by
  rw [BitVec.toNat_ofNat, Nat.mod_eq_of_lt (by omega)]
  omega

theorem Config.exists_elaborate_iff : (∃ c, Config.elaborate width nctx order closed init xorout = some c) ↔
    (width = 16 ∨ width = 32 ∨ width = 64) ∧ (1 ≤ nctx ∧ nctx ≤ 256) ∧ (closed = true → width = 16) := by
  calc (∃ c, Config.elaborate width nctx order closed init xorout = some c)
      ↔ (1 ≤ nctx ∧ nctx ≤ 256) ∧ ∃ d, Datapath.elaborate width closed = some d := by
        simp only [Config.elaborate_eq_some_iff]
        exact ⟨fun ⟨_, hn, d, hd, _⟩ => ⟨hn, d, hd⟩, fun ⟨hn, d, hd⟩ => ⟨_, hn, d, hd, rfl⟩⟩
    _ ↔ _ := by rw [Datapath.exists_elaborate_iff, and_left_comm]

theorem Config.parameters_of_elaborate {c : Config} (h : Config.elaborate width nctx order closed init xorout = some c) :
    c.w = width ∧ c.nctx = nctx ∧ c.closedForm = closed ∧ c.byteOrder = order ∧ c.ccitt16Init = init ∧
      c.ccitt16Xorout = xorout := by
  obtain ⟨hn, d, hd, rfl⟩ := Config.elaborate_eq_some_iff.1 h
  obtain ⟨hw, hc⟩ := Datapath.elaborate_eq_some_iff.1 hd
  exact ⟨hw, toNat_ofNat_pred_add_one hn, (Config.closedForm_eq_decide _).trans hc, rfl, rfl, rfl⟩

end

/-- Settles O57: which parameter sets are elaborated, and which parameters the answer then has. -/
theorem elaborationLegal : Obligations.ElaborationLegal :=
  fun _ _ _ _ _ _ => ⟨Config.exists_elaborate_iff, fun _ => Config.parameters_of_elaborate⟩

end Sys2Proof
end

section
/-! Proofs of the statements of 10_state.md: the write matrix, what writes the active set and keeps the engine invariant,
the state after power-on, and which registers a command reads. -/

namespace Sys2Proof.Machine

/-! ## The write matrix (R39) -/

/-- Every command answers an error with nothing written, or `OK` with at most the writes its row of R39 marks. -/
theorem exec_writes_row (i : Instr) (s : State) :
    (∃ e, e ≠ .ok ∧ exec i s = .next (respond s e 0)) ∨
      ∃ u d, writesOnly s u i ∧ exec i s = .next (respond u .ok d) := by
  cases i with
  | status => exact .inr ⟨s, _, rfl, rfl⟩
  | setpoly imm =>
    obtain h | ⟨v, h⟩ := execSetpoly_cases s imm
    · exact .inl ⟨_, by decide, h⟩
    · exact .inr ⟨_, _, ⟨v, rfl⟩, h⟩
  | setinit imm =>
    obtain h | ⟨v, h⟩ := execSetinit_cases s imm
    · exact .inl ⟨_, by decide, h⟩
    · exact .inr ⟨_, _, ⟨v, rfl⟩, h⟩
  | setxor imm =>
    obtain h | ⟨v, h⟩ := execSetxor_cases s imm
    · exact .inl ⟨_, by decide, h⟩
    · exact .inr ⟨_, _, ⟨v, rfl⟩, h⟩
  | setref rin rout => exact .inr ⟨setSRef s rin rout, _, ⟨rin, rout, rfl⟩, rfl⟩
  | build =>
    obtain ⟨-, h⟩ | ⟨-, h⟩ := execBuild_cases s
    · exact .inl ⟨_, by decide, h⟩
    · exact .inr ⟨_, _, ⟨_, _, _, _, _, _, _, rfl⟩, h⟩
  | update c b => exact (execUpdate_cases s c b).imp id fun ⟨hc, _, h⟩ => ⟨_, _, ⟨hc, _, rfl⟩, h⟩
  | updatew c o n buf => exact (execUpdatew_cases s c o n buf).imp id fun ⟨hc, _, _, h⟩ => ⟨_, _, ⟨hc, _, rfl⟩, h⟩
  | reset c => exact (execReset_cases s c).imp id fun ⟨hc, _, h⟩ => ⟨_, _, ⟨hc, _, rfl⟩, h⟩
  | value c => exact (execValue_cases s c).imp id fun ⟨_, _, h⟩ => ⟨s, _, rfl, h⟩
  | seed c imm => exact (execSeed_cases s c imm).imp id fun ⟨hc, _, _, h⟩ => ⟨_, _, ⟨hc, _, rfl⟩, h⟩
  | table i => exact (execTable_cases s i).imp id fun ⟨_, h⟩ => ⟨s, _, rfl, h⟩
  | reflect imm => exact (execReflect_cases s imm).imp id fun ⟨_, h⟩ => ⟨s, _, rfl, h⟩

/-- What a command that answered `t` did: nothing but an error response, or the writes of its row and an `OK` response. -/
theorem writes_row_of_exec {i : Instr} {s t : State} (h : exec i s = .next t) :
    (∃ e, e ≠ .ok ∧ t = respond s e 0) ∨ ∃ u d, writesOnly s u i ∧ t = respond u .ok d := by
  obtain ⟨e, he, hx⟩ | ⟨u, d, hu, hx⟩ := exec_writes_row i s <;> cases h.symm.trans hx
  · exact .inl ⟨e, he, rfl⟩
  · exact .inr ⟨u, d, hu, rfl⟩

/-- Settles O14: what each meaning can answer, command by command. -/
theorem writeMatrix : Obligations.WriteMatrix := fun _ _ _ => writes_row_of_exec

/-! ## BUILD, and the frame of every other command (R25) -/

/-- The statements' condition for a refused BUILD is the negation of the check BUILD makes (R105, R183). -/
theorem stagedRefused_eq_false_iff (s : State) : stagedRefused s = false ↔ buildAccepts s = true := by
  rw [buildAccepts_iff, stagedRefused, decide_eq_false_iff_not]
  tauto

theorem exec_build_of_accepted {s : State} (h : stagedRefused s = false) :
    exec .build s = .next (respond (installEngine s) .ok 0) :=
  if_pos ((stagedRefused_eq_false_iff s).1 h)

theorem exec_build_of_refused {s : State} (h : stagedRefused s ≠ false) :
    exec .build s = .next (respond s .errConfig 0) :=
  if_neg fun ha => h ((stagedRefused_eq_false_iff s).2 ha)

/-- `t` differs from `s` at most in the staging registers, the running registers and the responses: its active set, its table
and its CONFIGURED are those of `s`. -/
def KeepsEngine (s t : State) : Prop :=
  ∃ p i x a b C R, t = { s with sPoly := p, sInit := i, sXor := x, sRefin := a, sRefout := b, crc := C, responses := R }

theorem KeepsEngine.refl (s : State) : KeepsEngine s s := ⟨_, _, _, _, _, _, _, rfl⟩

protected theorem KeepsEngine.respond {s u : State} (h : KeepsEngine s u) (st : Status) (d : Data) :
    KeepsEngine s (respond u st d) := by
  obtain ⟨p, i, x, a, b, C, R, rfl⟩ := h
  exact ⟨p, i, x, a, b, C, _, rfl⟩

/-- The only row of the write matrix that marks the active set, the table or CONFIGURED is BUILD's. -/
theorem KeepsEngine.of_writesOnly {i : Instr} {s u : State} (h : writesOnly s u i) (hi : i ≠ .build) : KeepsEngine s u := by
  cases i with
  | build => exact absurd rfl hi
  | setpoly | setinit | setxor => obtain ⟨_, rfl⟩ := h; exact ⟨_, _, _, _, _, _, _, rfl⟩
  | setref => obtain ⟨_, _, rfl⟩ := h; exact ⟨_, _, _, _, _, _, _, rfl⟩
  | update | updatew | reset | seed => obtain ⟨_, _, rfl⟩ := h; exact ⟨_, _, _, _, _, _, _, rfl⟩
  | status | value | table | reflect => cases h; exact .refl s

theorem exec_keepsEngine {i : Instr} {s t : State} (h : exec i s = .next t) (hi : ¬ (i = .build ∧ stagedRefused s = false)) :
    KeepsEngine s t := by
  by_cases hb : i = .build
  · subst hb
    cases h.symm.trans (exec_build_of_refused fun hr => hi ⟨rfl, hr⟩)
    exact (KeepsEngine.refl s).respond _ _
  · obtain ⟨e, -, rfl⟩ | ⟨u, d, hu, rfl⟩ := writes_row_of_exec h
    · exact (KeepsEngine.refl s).respond e 0
    · exact (KeepsEngine.of_writesOnly hu hb).respond .ok d

/-- A command word installs the staged engine, when it is an accepted BUILD, or it keeps the engine there is. -/
theorem execWord_installs_or_keeps {cw : CommandWord} {s t : State} (h : execWord cw s = .next t) :
    (decode cw = .instr .build ∧ stagedRefused s = false ∧ t = respond (installEngine s) .ok 0) ∨
      (¬ (decode cw = .instr .build ∧ stagedRefused s = false) ∧ KeepsEngine s t) := by
  by_cases hb : decode cw = .instr .build ∧ stagedRefused s = false
  · obtain ⟨hd, hr⟩ := hb
    rw [execWord_of_instr s hd, exec_build_of_accepted hr] at h
    cases h
    exact .inl ⟨hd, hr, rfl⟩
  · refine .inr ⟨hb, ?_⟩
    cases hd : decode cw with
    | instr i =>
      rw [execWord_of_instr s hd] at h
      exact exec_keepsEngine h fun ⟨hi, hr⟩ => hb ⟨by rw [hd, hi], hr⟩
    | illegal => cases h.symm.trans (execWord_of_illegal s hd); exact (KeepsEngine.refl s).respond _ _
    | operand => cases h.symm.trans (execWord_of_operand s hd); exact (KeepsEngine.refl s).respond _ _

/-- Settles O16: the word's effect, on the state that has accepted it. -/
theorem activeSetOnlyByBuild : Obligations.ActiveSetOnlyByBuild := by
  intro s t cw rest hp hst
  rw [step_cons s cw rest hp] at hst
  exact execWord_installs_or_keeps hst

/-! ## The engine invariant (R28, R183) -/

/-- An accepted BUILD establishes the invariant from every state: the table is built from the very values it installs. -/
theorem inv_installEngine {s : State} (h : stagedRefused s = false) : (installEngine s).Inv := by
  obtain ⟨-, hclosed⟩ := (buildAccepts_iff s).1 ((stagedRefused_eq_false_iff s).1 h)
  refine fun _ => ⟨fun i => readEntry_buildTable s.sRefin s.sPoly i, fun hc => ?_⟩
  obtain ⟨href, hpoly⟩ := hclosed hc
  refine ⟨href, ?_⟩
  calc s.sPoly = BitVec.ofNat s.cfg.w s.sPoly.toNat := by simp
    _ = BitVec.ofNat s.cfg.w 0x1021 := by rw [hpoly]

/-- The invariant speaks of the engine only, so what keeps the engine keeps it. -/
theorem KeepsEngine.inv {s t : State} (h : KeepsEngine s t) (hs : s.Inv) : t.Inv := by
  obtain ⟨p, i, x, a, b, C, R, rfl⟩ := h
  exact hs

theorem execWord_keeps_inv {cw : CommandWord} {s t : State} (hs : s.Inv) (h : execWord cw s = .next t) : t.Inv := by
  obtain ⟨-, hr, rfl⟩ | ⟨-, hk⟩ := execWord_installs_or_keeps h
  · exact inv_installEngine hr
  · exact hk.inv hs

/-- Settles O17: an accepted BUILD establishes the invariant, and every other step keeps the engine it speaks of. -/
theorem engineInvariantKept : Obligations.EngineInvariantKept := by
  intro s t hs hst
  cases hp : s.pending with
  | nil => cases hst.symm.trans (step_nil s hp); exact hs
  | cons cw rest =>
    rw [step_cons s cw rest hp] at hst
    exact execWord_keeps_inv (s := { s with pending := rest }) hs hst

/-! ## Power-on (R37) -/

@[simp] theorem powerOn_configured (cfg : Config) (u : PowerOnContents cfg) : (State.powerOn cfg u).configured = false := rfl

/-- Power-on leaves no engine, so the invariant asks nothing of the unspecified contents. -/
theorem inv_powerOn (cfg : Config) (u : PowerOnContents cfg) : (State.powerOn cfg u).Inv :=
  fun h => absurd h (by simp)

/-- Settles O18: after power-on CONFIGURED is 0. -/
theorem engineInvariantAtReset : Obligations.EngineInvariantAtReset :=
  ⟨inv_powerOn, inv_powerOn _ _, _, rfl⟩

/-- Settles O23: the fields of `State.powerOn`. -/
theorem powerOnState : Obligations.PowerOnState :=
  fun _ _ => ⟨rfl, rfl, rfl, rfl, rfl, powerOn_configured _ _, rfl, rfl, rfl, rfl, rfl, rfl⟩

/-! ## Answers to one command in two states

The operand checks read the parameters and CONFIGURED only, so in two states that agree in those a command is refused in both
or goes on in both. -/

/-- Both outcomes are next states, and those states are related by `Rel`. -/
def Paired (Rel : State → State → Prop) (o o' : Host.Outcome State Fault Refusal) : Prop :=
  ∃ t t', o = .next t ∧ o' = .next t' ∧ Rel t t'

section

variable {Rel : State → State → Prop} {s s' : State}

theorem Paired.of_rel {t t' : State} (h : Rel t t') : Paired Rel (.next t) (.next t') := ⟨t, t', rfl, rfl, h⟩

theorem Paired.exists_of_next {t : State} {o o' : Host.Outcome State Fault Refusal} (h : Paired Rel o o')
    (ho : o = .next t) : ∃ t', o' = .next t' ∧ Rel t t' := by
  obtain ⟨u, t', hu, ho', hrel⟩ := h
  cases ho.symm.trans hu
  exact ⟨t', ho', hrel⟩

protected theorem Paired.withOperand {arg : Data} {k : BitVec s.cfg.w → Host.Outcome State Fault Refusal}
    {k' : BitVec s'.cfg.w → Host.Outcome State Fault Refusal} (hcfg : s'.cfg = s.cfg)
    (herr : ∀ e, Rel (respond s e 0) (respond s' e 0))
    (hk : Paired Rel (k (arg.setWidth s.cfg.w)) (k' (arg.setWidth s'.cfg.w))) :
    Paired Rel (withOperand s arg k) (withOperand s' arg k') := by
  rcases Nat.lt_or_ge arg.toNat (2 ^ s.cfg.w) with h | h
  · rwa [withOperand_of_lt _ h, withOperand_of_lt _ (by rwa [hcfg])]
  · rw [withOperand_of_le _ h, withOperand_of_le _ (by rwa [hcfg])]
    exact .of_rel (herr _)

protected theorem Paired.withContext {c : BitVec 8} {k : Fin s.cfg.nctx → Host.Outcome State Fault Refusal}
    {k' : Fin s'.cfg.nctx → Host.Outcome State Fault Refusal} (hcfg : s'.cfg = s.cfg)
    (herr : ∀ e, Rel (respond s e 0) (respond s' e 0))
    (hk : ∀ h h', Paired Rel (k ⟨c.toNat, h⟩) (k' ⟨c.toNat, h'⟩)) :
    Paired Rel (withContext s c k) (withContext s' c k') := by
  rcases Nat.lt_or_ge c.toNat s.cfg.nctx with h | h
  · have h' : c.toNat < s'.cfg.nctx := by rwa [hcfg]
    rw [withContext_of_lt _ h, withContext_of_lt _ h']
    exact hk h h'
  · rw [withContext_of_le _ h, withContext_of_le _ (by rwa [hcfg])]
    exact .of_rel (herr _)

protected theorem Paired.whenConfigured {k k' : Host.Outcome State Fault Refusal} (hconf : s'.configured = s.configured)
    (herr : ∀ e, Rel (respond s e 0) (respond s' e 0)) (hk : Paired Rel k k') :
    Paired Rel (whenConfigured s k) (whenConfigured s' k') := by
  cases hc : s.configured
  · rw [whenConfigured_of_false _ hc, whenConfigured_of_false _ (by rw [hconf, hc])]
    exact .of_rel (herr _)
  · rwa [whenConfigured_of_true _ hc, whenConfigured_of_true _ (by rw [hconf, hc])]

/-- The shape that UPDATE, UPDATEW, RESET and VALUE share: a context, then a built engine. -/
theorem Paired.inContext {c : BitVec 8} {k : Fin s.cfg.nctx → Host.Outcome State Fault Refusal}
    {k' : Fin s'.cfg.nctx → Host.Outcome State Fault Refusal} (hcfg : s'.cfg = s.cfg) (hconf : s'.configured = s.configured)
    (herr : ∀ e, Rel (respond s e 0) (respond s' e 0))
    (hk : ∀ h h', Paired Rel (k ⟨c.toNat, h⟩) (k' ⟨c.toNat, h'⟩)) :
    Paired Rel (withContext s c fun x => whenConfigured s (k x))
      (withContext s' c fun x => whenConfigured s' (k' x)) :=
  .withContext hcfg herr fun h h' => .whenConfigured hconf herr (hk h h')

end

/-! ## The staging registers (R21, R22) -/

/-- `t'` is `t` with other contents in the staging registers. -/
def DiffersInStaging (t t' : State) : Prop :=
  ∃ p n x a b, t' = { t with sPoly := p, sInit := n, sXor := x, sRefin := a, sRefout := b }

protected theorem DiffersInStaging.respond {t t' : State} (h : DiffersInStaging t t') (st : Status) (y : Data) :
    DiffersInStaging (respond t st y) (respond t' st y) := by
  obtain ⟨p, n, x, a, b, rfl⟩ := h
  exact ⟨p, n, x, a, b, rfl⟩

/-- Every command but BUILD answers states that still differ in the staging registers only: the writes of those are of values
that come from the command. -/
theorem exec_ignores_staging {i : Instr} (hi : i ≠ .build) {s s' : State} (hs : DiffersInStaging s s') :
    Paired DiffersInStaging (exec i s) (exec i s') := by
  have herr (e : Status) := hs.respond e 0
  obtain ⟨p, n, x, a, b, rfl⟩ := hs
  cases i with
  | build => exact absurd rfl hi
  | status => exact .of_rel ⟨p, n, x, a, b, rfl⟩
  | setpoly imm =>
    simp only [exec, execSetpoly]
    exact .withOperand rfl herr (.of_rel ⟨_, n, x, a, b, rfl⟩)
  | setinit imm =>
    simp only [exec, execSetinit]
    exact .withOperand rfl herr (.of_rel ⟨p, _, x, a, b, rfl⟩)
  | setxor imm =>
    simp only [exec, execSetxor]
    exact .withOperand rfl herr (.of_rel ⟨p, n, _, a, b, rfl⟩)
  | setref rin rout => exact .of_rel ⟨p, n, x, rin, rout, rfl⟩
  | update c y =>
    simp only [exec, execUpdate]
    exact .inContext rfl rfl herr fun _ _ => .of_rel ⟨p, n, x, a, b, rfl⟩
  | updatew c o m buf =>
    simp only [exec, execUpdatew]
    refine .inContext rfl rfl herr fun _ _ => ?_
    split
    · exact .of_rel ⟨p, n, x, a, b, rfl⟩
    · exact .of_rel (herr _)
  | reset c =>
    simp only [exec, execReset]
    exact .inContext rfl rfl herr fun _ _ => .of_rel ⟨p, n, x, a, b, rfl⟩
  | value c =>
    simp only [exec, execValue]
    exact .inContext rfl rfl herr fun _ _ => .of_rel ⟨p, n, x, a, b, rfl⟩
  | seed c imm =>
    simp only [exec, execSeed]
    exact .withContext rfl herr fun _ _ => .withOperand rfl herr
      (.whenConfigured rfl herr (.of_rel ⟨p, n, x, a, b, rfl⟩))
  | table i =>
    simp only [exec, execTable]
    exact .whenConfigured rfl herr (.of_rel ⟨p, n, x, a, b, rfl⟩)
  | reflect imm =>
    simp only [exec, execReflect]
    exact .withOperand rfl herr (.of_rel ⟨p, n, x, a, b, rfl⟩)

/-- Settles O22: the answers differ in the staging registers only. -/
theorem stagingReadByBuildOnly : Obligations.StagingReadByBuildOnly := by
  intro i s t p n x a b hi h
  obtain ⟨_, ht', _, _, _, _, _, rfl⟩ := (exec_ignores_staging hi ⟨p, n, x, a, b, rfl⟩).exists_of_next h
  exact ⟨_, ht', rfl, rfl, rfl, fun _ => rfl⟩

/-! ## The running registers (R30) -/

/-- A row of the write matrix changes `CRC[d]` only when it is BUILD's or that of a command on context `d`. -/
theorem crcData_of_writesOnly {i : Instr} {s u : State} {d : Nat} (h : writesOnly s u i) (hi : i ≠ .build)
    (hd : ∀ c, addressed i = some c → c.toNat ≠ d) : crcData u d = crcData s d := by
  cases i with
  | build => exact absurd rfl hi
  | setpoly | setinit | setxor => obtain ⟨_, rfl⟩ := h; rfl
  | setref => obtain ⟨_, _, rfl⟩ := h; rfl
  | update c | updatew c | reset c | seed c =>
    obtain ⟨hc, v, rfl⟩ := h
    exact crcData_writeCrc_ne s ⟨c.toNat, hc⟩ v d (hd c rfl)
  | status | value | table | reflect => cases h; rfl

theorem exec_keeps_crcData {i : Instr} {s t : State} {d : Nat} (h : exec i s = .next t)
    (hi : ¬ (i = .build ∧ stagedRefused s = false)) (hd : ∀ c, addressed i = some c → c.toNat ≠ d) :
    crcData t d = crcData s d := by
  by_cases hb : i = .build
  · subst hb
    cases h.symm.trans (exec_build_of_refused fun hr => hi ⟨rfl, hr⟩)
    rfl
  · obtain ⟨e, -, rfl⟩ | ⟨u, x, hu, rfl⟩ := writes_row_of_exec h
    · rfl
    · exact (crcData_respond u .ok x d).trans (crcData_of_writesOnly hu hb hd)

/-- A command changes the register of one context only, unless it is an accepted BUILD. -/
theorem build_of_two_crcData_ne {i : Instr} {s t : State} {d e : Nat} (h : exec i s = .next t) (hde : d ≠ e)
    (hd : crcData t d ≠ crcData s d) (he : crcData t e ≠ crcData s e) : i = .build ∧ stagedRefused s = false := by
  by_contra hb
  have addressed_of_ne {f : Nat} (hf : crcData t f ≠ crcData s f) : ∃ c, addressed i = some c ∧ c.toNat = f := by
    by_contra hn
    exact hf (exec_keeps_crcData h hb fun c hc hcf => hn ⟨c, hc, hcf⟩)
  obtain ⟨c, hc, rfl⟩ := addressed_of_ne hd
  obtain ⟨c', hc', rfl⟩ := addressed_of_ne he
  cases hc.symm.trans hc'
  exact hde rfl

theorem crcData_installEngine {s : State} {c : Nat} (h : c < s.cfg.nctx) :
    crcData (installEngine s) c = some (zext64 s.sInit) := by
  simp [crcData, h]

theorem writeCrc_comm (s : State) {c d : Fin s.cfg.nctx} (h : c ≠ d) (y v : BitVec s.cfg.w) :
    writeCrc (writeCrc s d v) c y = writeCrc (writeCrc s c y) d v := by
  have hne : d.val ≠ c.val := fun e => h (Fin.ext e.symm)
  exact congrArg (fun C => ({ s with crc := C } : State)) (Vector.set_comm _ _ hne)

/-- `t'` is `t` with the W-bit value of the number `x` in `CRC[d]`. -/
def DiffersInCrc (d : Nat) (x : Data) (t t' : State) : Prop :=
  ∃ (h : d < t.cfg.nctx) (v : BitVec t.cfg.w), zext64 v = x ∧ t' = writeCrc t ⟨d, h⟩ v

/-- A command on context `c` neither reads nor writes `CRC[d]`, so whatever that holds stays there and reaches nothing else. -/
theorem exec_ignores_crc {i : Instr} {c : BitVec 8} (hi : addressed i = some c) {s : State} (d : Fin s.cfg.nctx)
    (hd : c.toNat ≠ d.val) (v : BitVec s.cfg.w) :
    Paired (DiffersInCrc d.val (zext64 v)) (exec i s) (exec i (writeCrc s d v)) := by
  have hne (h : c.toNat < s.cfg.nctx) : ⟨c.toNat, h⟩ ≠ d := fun e => hd (congrArg Fin.val e)
  have hresp (st : Status) (x : Data) : DiffersInCrc d.val (zext64 v) (respond s st x) (respond (writeCrc s d v) st x) :=
    ⟨d.isLt, v, rfl, rfl⟩
  have herr (e : Status) := hresp e 0
  have hread (h : c.toNat < s.cfg.nctx) : readCrc (writeCrc s d v) ⟨c.toNat, h⟩ = readCrc s ⟨c.toNat, h⟩ :=
    readCrc_writeCrc_ne s d ⟨c.toNat, h⟩ v (hne h).symm
  have hwrite (h : c.toNat < s.cfg.nctx) (y : BitVec s.cfg.w) : DiffersInCrc d.val (zext64 v)
      (respond (writeCrc s ⟨c.toNat, h⟩ y) .ok 0) (respond (writeCrc (writeCrc s d v) ⟨c.toNat, h⟩ y) .ok 0) :=
    ⟨d.isLt, v, rfl, congrArg (respond · .ok 0) (writeCrc_comm s (hne h) y v)⟩
  cases i with
  | status | setpoly | setinit | setxor | setref | build | table | reflect => cases hi
  | update _ b =>
    cases hi
    simp only [exec, execUpdate]
    refine .inContext rfl rfl herr fun h _ => ?_
    rw [hread h]
    exact .of_rel (hwrite h _)
  | updatew _ o n buf =>
    cases hi
    simp only [exec, execUpdatew]
    refine .inContext rfl rfl herr fun h _ => ?_
    rw [hread h]
    split
    · exact .of_rel (hwrite h _)
    · exact .of_rel (herr _)
  | reset =>
    cases hi
    simp only [exec, execReset]
    exact .inContext rfl rfl herr fun h _ => .of_rel (hwrite h _)
  | value =>
    cases hi
    simp only [exec, execValue]
    refine .inContext rfl rfl herr fun h _ => ?_
    rw [hread h]
    exact .of_rel (hresp _ _)
  | seed _ imm =>
    cases hi
    simp only [exec, execSeed]
    exact .withContext rfl herr fun h _ => .withOperand rfl herr (.whenConfigured rfl herr (.of_rel (hwrite h _)))

/-- Settles O20: a command on one context is blind to the other registers, and only BUILD's row marks more than one. -/
theorem registerExclusivity : Obligations.RegisterExclusivity := by
  refine ⟨?_, fun i s t d e h => build_of_two_crcData_ne h, ?_⟩
  · intro i c s t d hlt v hi hd h
    constructor
    · refine exec_keeps_crcData h ?_ ?_
      · rintro ⟨rfl, -⟩
        cases hi
      · intro c' hc'
        cases hi.symm.trans hc'
        exact hd
    · obtain ⟨_, ht', hdt, v', hv', rfl⟩ := (exec_ignores_crc hi ⟨d, hlt⟩ hd v).exists_of_next h
      have hsame := crcData_writeCrc_same t ⟨d, hdt⟩ v'
      exact ⟨_, ht', rfl, hv' ▸ hsame, fun e he => crcData_writeCrc_ne t ⟨d, hdt⟩ v' e he.symm⟩
  · intro s t h hr c hc
    cases h.symm.trans (exec_build_of_accepted hr)
    exact ⟨crcData_installEngine hc, rfl⟩

end Sys2Proof.Machine
end

section
/-! Proofs of the statements of 20_memory.md: the lanes of the UPDATEW buffer, what a step runs, and the serialisation of a
W-bit value in both byte orders. -/

namespace Sys2Proof.Machine

/-! ## Bytes of a value and lanes of the buffer -/

/-- Byte `k` of a value, as the generator of byte lists and the lane numbering both take it (R55, R58). -/
theorem extractByte_eq_ofNat {w : Nat} (v : BitVec w) (k : Nat) :
    v.extractLsb' (8 * k) 8 = BitVec.ofNat 8 (v.toNat / 2 ^ (8 * k)) := by
  rw [BitVec.extractLsb', Nat.shiftRight_eq_div_pow]

theorem toNat_extractByte {w : Nat} (v : BitVec w) (k : Nat) :
    (v.extractLsb' (8 * k) 8).toNat = v.toNat / 2 ^ (8 * k) % 256 := by
  rw [extractByte_eq_ofNat, BitVec.toNat_ofNat]

theorem lanes_eq_map_range' (buf : Data) (o n : Nat) : lanes buf o n = (List.range' o n).map (lane buf) := by
  rw [lanes, List.range'_eq_map_range, List.map_map]
  rfl

/-- Settles O43: a lane is byte `k` of the buffer, and `lanes` counts up from the first. -/
theorem laneNumbering : Obligations.LaneNumbering := ⟨toNat_extractByte, lanes_eq_map_range'⟩

/-! ## What a step runs -/

theorem decode_tableWord_of_eq_some {nbits w : Nat} {i : Instr} (h : decodeTableWord nbits w = some i) :
    decode (tableWord nbits w) = .instr i := by
  unfold decodeTableWord at h
  split at h
  · split at h
    · cases h; assumption
    · cases h
    · cases h
  · cases h

/-- Settles O12: the step of an idle port, of a word presented, and of a word of the opcode table presented next. -/
theorem stepRunsDecodedCommand : Obligations.StepRunsDecodedCommand := by
  refine ⟨step_nil, ?_, ?_⟩
  · intro s cw rest i hp hd
    rw [step_cons s cw rest hp, execWord_of_instr _ hd]
  · intro s nbits w i h
    rw [State.withFetchWord, step_presentCommand, execWord_of_instr s (decode_tableWord_of_eq_some h)]

/-! ## The sums of the bytes' weights -/

/-- The little-endian sum reads the bytes as digits in base 256, the first one least significant. -/
theorem littleSum_eq_ofDigits (bs : List Byte) : littleSum bs = Nat.ofDigits 256 (bs.map BitVec.toNat) := by
  induction bs with
  | nil => rfl
  | cons b rest ih => rw [littleSum, ih, List.map_cons, Nat.ofDigits_cons]

theorem littleSum_concat (bs : List Byte) (b : Byte) : littleSum (bs ++ [b]) = littleSum bs + 256 ^ bs.length * b.toNat := by
  simp [littleSum_eq_ofDigits, Nat.ofDigits_append]

theorem littleSum_lt (bs : List Byte) : littleSum bs < 256 ^ bs.length := by
  have digit : ∀ d ∈ bs.map BitVec.toNat, d < 256 := by
    intro d hd
    obtain ⟨b, -, rfl⟩ := List.mem_map.1 hd
    exact b.isLt
  rw [littleSum_eq_ofDigits]
  simpa using Nat.ofDigits_lt_base_pow_length (by decide) digit

/-- The two orders differ by a reversal of the bytes (R58). -/
theorem bigSum_eq_littleSum_reverse (bs : List Byte) : bigSum bs = littleSum bs.reverse := by
  induction bs with
  | nil => rfl
  | cons b rest ih => rw [bigSum, ih, List.reverse_cons, littleSum_concat, List.length_reverse, Nat.add_comm, Nat.mul_comm]

theorem bigSum_lt (bs : List Byte) : bigSum bs < 256 ^ bs.length := by
  simpa [bigSum_eq_littleSum_reverse] using littleSum_lt bs.reverse

theorem pow_256 (k : Nat) : 256 ^ k = 2 ^ (8 * k) := by rw [Nat.pow_mul]

theorem littleSum_eq_sum (bs : List Byte) :
    littleSum bs = ((List.range bs.length).map fun k => (bs.getD k 0).toNat * 2 ^ (8 * k)).sum := by
  induction bs with
  | nil => rfl
  | cons b rest ih =>
    rw [littleSum, ih, List.length_cons, List.range_succ_eq_map, List.map_cons, List.sum_cons, List.map_map,
      ← List.sum_map_mul_left]
    congr 2
    · simp
    · refine List.map_congr_left fun k _ => ?_
      simp only [Function.comp, List.getD_cons_succ, ← pow_256, Nat.pow_succ]
      ac_rfl

theorem bigSum_eq_sum (bs : List Byte) :
    bigSum bs = ((List.range bs.length).map fun k => (bs.getD k 0).toNat * 2 ^ (8 * (bs.length - 1 - k))).sum := by
  induction bs with
  | nil => rfl
  | cons b rest ih =>
    rw [bigSum, ih, List.length_cons, List.range_succ_eq_map, List.map_cons, List.sum_cons, List.map_map]
    congr 2
    · simp [pow_256]
    · refine List.map_congr_left fun k _ => ?_
      have weight : rest.length + 1 - 1 - (k + 1) = rest.length - 1 - k := by omega
      simp only [Function.comp, List.getD_cons_succ, weight]

/-! ## Serialisation and back -/

theorem littleBytes_succ {w : Nat} (v : BitVec w) (n : Nat) :
    littleBytes v (n + 1) = littleBytes v n ++ [v.extractLsb' (8 * n) 8] := by
  simp [littleBytes, List.range_succ]

@[simp] theorem length_littleBytes {w : Nat} (v : BitVec w) (n : Nat) : (littleBytes v n).length = n := by simp [littleBytes]

theorem getElem?_littleBytes {w n k : Nat} (v : BitVec w) (h : k < n) :
    (littleBytes v n)[k]? = some (BitVec.ofNat 8 (v.toNat / 2 ^ (8 * k))) := by
  rw [littleBytes, List.getElem?_map, List.getElem?_range h, Option.map_some, extractByte_eq_ofNat]

/-- The low `n` bytes hold the value modulo `2^(8n)`. -/
theorem littleSum_littleBytes {w : Nat} (v : BitVec w) (n : Nat) : littleSum (littleBytes v n) = v.toNat % 256 ^ n := by
  induction n with
  | zero => simp [littleBytes, littleSum, Nat.mod_one]
  | succ n ih =>
    rw [littleBytes_succ, littleSum_concat, ih, length_littleBytes, toNat_extractByte, ← pow_256, Nat.pow_succ, Nat.mod_mul]

theorem length_ser {w : Nat} (v : BitVec w) (o : ByteOrder) : (ser v o).length = w / 8 := by
  cases o <;> simp [ser]

/-- Every width W is a whole number of bytes (R5). -/
theorem pow_256_bytes (cfg : Config) : 256 ^ (cfg.w / 8) = 2 ^ cfg.w := by
  have whole : 8 ∣ cfg.w := by rcases cfg.w_cases with h | h | h <;> omega
  rw [pow_256, Nat.mul_div_cancel' whole]

theorem deser_ser (cfg : Config) (v : BitVec cfg.w) (o : ByteOrder) : deser cfg.w (ser v o) o = v := by
  have whole : littleSum (littleBytes v (cfg.w / 8)) = v.toNat := by
    rw [littleSum_littleBytes, pow_256_bytes, Nat.mod_eq_of_lt v.isLt]
  cases o with
  | little => rw [ser, deser, whole, BitVec.ofNat_toNat, BitVec.setWidth_eq]
  | big =>
    rw [ser, deser, bigSum_eq_littleSum_reverse, List.reverse_reverse, whole, BitVec.ofNat_toNat, BitVec.setWidth_eq]

theorem toNat_deser_little (cfg : Config) {bytes : List Byte} (h : bytes.length = cfg.w / 8) :
    (deser cfg.w bytes .little).toNat = littleSum bytes := by
  rw [deser, BitVec.toNat_ofNat, Nat.mod_eq_of_lt]
  simpa [h, pow_256_bytes] using littleSum_lt bytes

theorem toNat_deser_big (cfg : Config) {bytes : List Byte} (h : bytes.length = cfg.w / 8) :
    (deser cfg.w bytes .big).toNat = bigSum bytes := by
  rw [deser, BitVec.toNat_ofNat, Nat.mod_eq_of_lt]
  simpa [h, pow_256_bytes] using bigSum_lt bytes

/-- Settles O56: the byte lists, the inverse in both orders, the order of `BYTE_ORDER`, and the sums of the weights. -/
theorem serialRoundTrip : Obligations.SerialRoundTrip := by
  refine ⟨?_, ?_, ?_, ?_, ?_⟩
  · intro cfg v k hk
    exact getElem?_littleBytes v hk
  · intro cfg v o
    exact ⟨length_ser v o, deser_ser cfg v o⟩
  · intro cfg v
    exact ⟨rfl, deser_ser cfg v cfg.byteOrder⟩
  · intro cfg v bytes
    exact ⟨rfl, rfl⟩
  · intro cfg bytes h
    exact ⟨(toNat_deser_little cfg h).trans (littleSum_eq_sum bytes), (toNat_deser_big cfg h).trans (bigSum_eq_sum bytes)⟩

end Sys2Proof.Machine
end

section
/-! Proofs of the statements of 30_encoding.md: the fields of the command word and of the response word, decoding and encoding,
the order of the checks, and the pseudo-instructions that run commands. -/

/-! ## Words and their fields (R70, R71) -/

namespace Sys2Proof

open Sys2Proof.Machine

/-- The two parts of a word stand side by side as digits. -/
theorem toNat_append_eq_add {m n : Nat} (x : BitVec m) (y : BitVec n) : (x ++ y).toNat = x.toNat * 2 ^ n + y.toNat := by
  rw [BitVec.toNat_append, ← Nat.shiftLeft_add_eq_or_of_lt y.isLt, Nat.shiftLeft_eq]

/-- Settles O1: the fields as digits of the word, and as its quotients and remainders. -/
theorem commandWordLayout : Obligations.CommandWordLayout := by
  constructor
  · intro f
    simp only [packWord, toNat_append_eq_add]
    omega
  · intro cw
    have := cw.isLt
    simp only [splitWord, BitVec.extractLsb'_toNat, Nat.shiftRight_eq_div_pow]
    refine ⟨?_, trivial, trivial, ?_⟩ <;> omega

/-! ## Operands packed into `sel` and `arg` (R74, R82) -/

/-- The `sel` field of UPDATEW has the offset and the count as its hexadecimal digits. -/
theorem toNat_sel_of_range (o n : BitVec 4) : (BitVec.ofNat 8 (16 * o.toNat + n.toNat)).toNat = 16 * o.toNat + n.toNat := by
  have := o.isLt
  have := n.isLt
  rw [BitVec.toNat_ofNat]
  omega

theorem extract_sel_of_range (o n : BitVec 4) :
    (BitVec.ofNat 8 (16 * o.toNat + n.toNat)).extractLsb' 4 4 = o ∧
      (BitVec.ofNat 8 (16 * o.toNat + n.toNat)).extractLsb' 0 4 = n := by
  have := o.isLt
  have := n.isLt
  simp only [← BitVec.toNat_inj, BitVec.extractLsb'_toNat, Nat.shiftRight_eq_div_pow, toNat_sel_of_range]
  omega

theorem sel_of_extract_range (sel : BitVec 8) :
    BitVec.ofNat 8 (16 * (sel.extractLsb' 4 4).toNat + (sel.extractLsb' 0 4).toNat) = sel := by
  have := sel.isLt
  simp only [← BitVec.toNat_inj, BitVec.extractLsb'_toNat, Nat.shiftRight_eq_div_pow, BitVec.toNat_ofNat]
  omega

/-- A byte as `arg` leaves `arg[63:8]` at 0. -/
theorem extract_high56_setWidth (b : Byte) : (b.setWidth 64).extractLsb' 8 56 = 0 := by
  rw [extract_high56_eq_zero_iff, toNat_setWidth_byte]
  exact b.isLt

/-- An `arg` that fits a byte is its low byte, zero-extended. -/
theorem setWidth_extract_low8 {arg : Data} (h : arg.extractLsb' 8 56 = 0) : (arg.extractLsb' 0 8).setWidth 64 = arg := by
  rw [extract_high56_eq_zero_iff] at h
  rw [← BitVec.toNat_inj, toNat_setWidth_byte, BitVec.extractLsb'_toNat, Nat.shiftRight_zero]
  omega

/-- An `arg` of two bits is the sum of their weights. -/
theorem ofNat_flags_eq {arg : Data} (h : arg.extractLsb' 2 62 = 0) :
    BitVec.ofNat 64 ((arg.getLsbD 0).toNat + 2 * (arg.getLsbD 1).toNat) = arg := by
  rw [extract_high62_eq_zero_iff] at h
  have h0 : (arg.getLsbD 0).toNat = arg.toNat % 2 := by rw [BitVec.getLsbD, Nat.toNat_testBit, Nat.pow_zero, Nat.div_one]
  have h1 : (arg.getLsbD 1).toNat = arg.toNat / 2 % 2 := by rw [BitVec.getLsbD, Nat.toNat_testBit, Nat.pow_one]
  rw [← BitVec.toNat_inj, BitVec.toNat_ofNat, h0, h1]
  omega

/-- Settles O3: each format reads back the operands that the encoder packed. -/
theorem decodeOfEncode : Obligations.DecodeOfEncode := by
  intro i
  rw [decode_encode_eq]
  cases i with
  | status | setpoly | setinit | setxor | build | reset | value | seed | reflect => rfl
  | setref rin rout => cases rin <;> cases rout <;> rfl
  | update | table => simp [fieldsOf, formatCB, formatX, extract_high56_setWidth, extract_low8_setWidth]
  | updatew c o n buf =>
    obtain ⟨ho, hn⟩ := extract_sel_of_range o n
    simp only [fieldsOf, decodeFields_updatew, formatCU, ho, hn]

/-! ## What a format reads (R74) -/

/-- `d` is what the format `fmt` may answer to the fields `f`: a command with exactly these fields, or an operand error, and
then no parameters allow them. -/
def Reads (fmt : Format) (f : Fields) (d : Decoded) : Prop :=
  (∃ i, d = .instr i ∧ fieldsOf i = f) ∨ (d = .operand ∧ ∀ cfg, formatAllows cfg f fmt = false)

/-- The shape of seven of the eight formats: a test of the must-be-zero fields decides, and allowed fields pass it. -/
theorem Reads.of_test {fmt : Format} {f : Fields} {i : Instr} {p : Prop} [Decidable p] (hi : p → fieldsOf i = f)
    (ha : ∀ cfg, formatAllows cfg f fmt = true → p) : Reads fmt f (if p then .instr i else .operand) := by
  by_cases h : p
  · exact .inl ⟨i, if_pos h, hi h⟩
  · exact .inr ⟨if_neg h, fun cfg => Bool.eq_false_iff.2 fun hf => h (ha cfg hf)⟩

section

variable {op ctx sel : BitVec 8} {arg : Data}

theorem formatN_reads {i : Instr} (hi : fieldsOf i = ⟨op, 0, 0, 0⟩) :
    Reads .n ⟨op, ctx, sel, arg⟩ (formatN ⟨op, ctx, sel, arg⟩ i) := by
  refine .of_test ?_ fun cfg ha => ?_
  · rintro ⟨rfl, rfl, rfl⟩
    exact hi
  · obtain ⟨hctx, hsel, harg⟩ := of_decide_eq_true ha
    exact ⟨BitVec.eq_of_toNat_eq hctx, BitVec.eq_of_toNat_eq hsel, BitVec.eq_of_toNat_eq harg⟩

theorem formatC_reads {mk : BitVec 8 → Instr} (hmk : ∀ c, fieldsOf (mk c) = ⟨op, c, 0, 0⟩) :
    Reads .c ⟨op, ctx, sel, arg⟩ (formatC ⟨op, ctx, sel, arg⟩ mk) := by
  refine .of_test ?_ fun cfg ha => ?_
  · rintro ⟨rfl, rfl⟩
    exact hmk ctx
  · obtain ⟨-, hsel, harg⟩ := of_decide_eq_true ha
    exact ⟨BitVec.eq_of_toNat_eq hsel, BitVec.eq_of_toNat_eq harg⟩

theorem formatA_reads {mk : Data → Instr} (hmk : ∀ imm, fieldsOf (mk imm) = ⟨op, 0, 0, imm⟩) :
    Reads .a ⟨op, ctx, sel, arg⟩ (formatA ⟨op, ctx, sel, arg⟩ mk) := by
  refine .of_test ?_ fun cfg ha => ?_
  · rintro ⟨rfl, rfl⟩
    exact hmk arg
  · obtain ⟨hctx, hsel, -⟩ := of_decide_eq_true ha
    exact ⟨BitVec.eq_of_toNat_eq hctx, BitVec.eq_of_toNat_eq hsel⟩

theorem formatCA_reads {mk : BitVec 8 → Data → Instr} (hmk : ∀ c imm, fieldsOf (mk c imm) = ⟨op, c, 0, imm⟩) :
    Reads .ca ⟨op, ctx, sel, arg⟩ (formatCA ⟨op, ctx, sel, arg⟩ mk) := by
  refine .of_test ?_ fun cfg ha => ?_
  · rintro rfl
    exact hmk ctx arg
  · obtain ⟨-, hsel, -⟩ := of_decide_eq_true ha
    exact BitVec.eq_of_toNat_eq hsel

theorem formatR_reads {mk : Bool → Bool → Instr}
    (hmk : ∀ a b, fieldsOf (mk a b) = ⟨op, 0, 0, BitVec.ofNat 64 (a.toNat + 2 * b.toNat)⟩) :
    Reads .r ⟨op, ctx, sel, arg⟩ (formatR ⟨op, ctx, sel, arg⟩ mk) := by
  refine .of_test ?_ fun cfg ha => ?_
  · rintro ⟨rfl, rfl, hhigh⟩
    rw [hmk, ofNat_flags_eq hhigh]
  · obtain ⟨hctx, hsel, harg⟩ := of_decide_eq_true ha
    exact ⟨BitVec.eq_of_toNat_eq hctx, BitVec.eq_of_toNat_eq hsel, (extract_high62_eq_zero_iff arg).2 harg⟩

theorem formatCB_reads {mk : BitVec 8 → Byte → Instr} (hmk : ∀ c b, fieldsOf (mk c b) = ⟨op, c, 0, b.setWidth 64⟩) :
    Reads .cb ⟨op, ctx, sel, arg⟩ (formatCB ⟨op, ctx, sel, arg⟩ mk) := by
  refine .of_test ?_ fun cfg ha => ?_
  · rintro ⟨rfl, hhigh⟩
    rw [hmk, setWidth_extract_low8 hhigh]
  · obtain ⟨-, hsel, harg⟩ := of_decide_eq_true ha
    exact ⟨BitVec.eq_of_toNat_eq hsel, (extract_high56_eq_zero_iff arg).2 harg⟩

theorem formatX_reads {mk : BitVec 8 → Instr} (hmk : ∀ i, fieldsOf (mk i) = ⟨op, 0, 0, i.setWidth 64⟩) :
    Reads .x ⟨op, ctx, sel, arg⟩ (formatX ⟨op, ctx, sel, arg⟩ mk) := by
  refine .of_test ?_ fun cfg ha => ?_
  · rintro ⟨rfl, rfl, hhigh⟩
    rw [hmk, setWidth_extract_low8 hhigh]
  · obtain ⟨hctx, hsel, harg⟩ := of_decide_eq_true ha
    exact ⟨BitVec.eq_of_toNat_eq hctx, BitVec.eq_of_toNat_eq hsel, (extract_high56_eq_zero_iff arg).2 harg⟩

/-- Format CU has no test: every `sel` is an offset and a count, and every `arg` is legal. -/
theorem formatCU_reads {mk : BitVec 8 → BitVec 4 → BitVec 4 → Data → Instr}
    (hmk : ∀ c o n buf, fieldsOf (mk c o n buf) = ⟨op, c, BitVec.ofNat 8 (16 * o.toNat + n.toNat), buf⟩) :
    Reads .cu ⟨op, ctx, sel, arg⟩ (formatCU ⟨op, ctx, sel, arg⟩ mk) :=
  .inl ⟨_, rfl, by rw [hmk, sel_of_extract_range]⟩

end

/-! ## What the decoder answers (R73, R76 to R78) -/

/-- An `op` outside the map is illegal; every other one is read in the format of its row. -/
theorem decodeFields_cases (f : Fields) : (legalOp f.op = false ∧ decodeFields f = .illegal) ∨
    ∃ fmt, (f.op, fmt) ∈ opcodeMap ∧ Reads fmt f (decodeFields f) := by
  obtain ⟨op, ctx, sel, arg⟩ := f
  rcases op_cases op with rfl | rfl | rfl | rfl | rfl | rfl | rfl | rfl | rfl | rfl | rfl | rfl | rfl | h
  · exact .inr ⟨.n, by simp [opcodeMap], formatN_reads rfl⟩
  · exact .inr ⟨.a, by simp [opcodeMap], formatA_reads fun _ => rfl⟩
  · exact .inr ⟨.a, by simp [opcodeMap], formatA_reads fun _ => rfl⟩
  · exact .inr ⟨.a, by simp [opcodeMap], formatA_reads fun _ => rfl⟩
  · exact .inr ⟨.r, by simp [opcodeMap], formatR_reads fun _ _ => rfl⟩
  · exact .inr ⟨.n, by simp [opcodeMap], formatN_reads rfl⟩
  · exact .inr ⟨.cb, by simp [opcodeMap], formatCB_reads fun _ _ => rfl⟩
  · exact .inr ⟨.cu, by simp [opcodeMap], formatCU_reads fun _ _ _ _ => rfl⟩
  · exact .inr ⟨.c, by simp [opcodeMap], formatC_reads fun _ => rfl⟩
  · exact .inr ⟨.c, by simp [opcodeMap], formatC_reads fun _ => rfl⟩
  · exact .inr ⟨.ca, by simp [opcodeMap], formatCA_reads fun _ _ => rfl⟩
  · exact .inr ⟨.x, by simp [opcodeMap], formatX_reads fun _ => rfl⟩
  · exact .inr ⟨.a, by simp [opcodeMap], formatA_reads fun _ => rfl⟩
  · refine .inl ⟨?_, decodeFields_of_ne _ h⟩
    simpa [legalOp, opcodeMap] using h

/-- The map gives an opcode one format. -/
theorem opcodeMap_functional : ∀ e ∈ opcodeMap, ∀ e' ∈ opcodeMap, e.1 = e'.1 → e = e' := by decide

theorem legalOp_iff (op : BitVec 8) : legalOp op = true ↔ ∃ e ∈ opcodeMap, op = e.1 := by
  simp only [legalOp, List.any_eq_true, beq_iff_eq]

theorem legalOp_of_mem {op : BitVec 8} {fmt : Format} (h : (op, fmt) ∈ opcodeMap) : legalOp op = true :=
  (legalOp_iff op).2 ⟨_, h, rfl⟩

/-- The format of an opcode's row is the one its fields are held to (R74, R76). -/
theorem fieldsAllowed_of_mem {f : Fields} {fmt : Format} (h : (f.op, fmt) ∈ opcodeMap) (cfg : Config) :
    fieldsAllowed cfg f = formatAllows cfg f fmt := by
  rw [Bool.eq_iff_iff, fieldsAllowed, List.any_eq_true]
  constructor
  · rintro ⟨e, he, ha⟩
    rw [Bool.and_eq_true, beq_iff_eq] at ha
    cases opcodeMap_functional _ h e he ha.1
    exact ha.2
  · intro ha
    exact ⟨_, h, by simpa using ha⟩

/-! What each answer of the decoder says about the fields. -/

theorem decodeFields_eq_illegal_iff (f : Fields) : decodeFields f = .illegal ↔ legalOp f.op = false := by
  obtain ⟨hl, hd⟩ | ⟨fmt, hm, ⟨i, hd, -⟩ | ⟨hd, -⟩⟩ := decodeFields_cases f
  · simp [hl, hd]
  · simp [legalOp_of_mem hm, hd]
  · simp [legalOp_of_mem hm, hd]

theorem fieldsOf_of_decodeFields {f : Fields} {i : Instr} (h : decodeFields f = .instr i) : fieldsOf i = f := by
  obtain ⟨-, hd⟩ | ⟨fmt, -, ⟨j, hd, hj⟩ | ⟨hd, -⟩⟩ := decodeFields_cases f <;> cases h.symm.trans hd
  exact hj

theorem fieldsAllowed_of_operand {f : Fields} (h : decodeFields f = .operand) (cfg : Config) :
    fieldsAllowed cfg f = false := by
  obtain ⟨-, hd⟩ | ⟨fmt, hm, ⟨i, hd, -⟩ | ⟨-, hn⟩⟩ := decodeFields_cases f
  · cases h.symm.trans hd
  · cases h.symm.trans hd
  · rw [fieldsAllowed_of_mem hm, hn]

theorem legalOp_of_fieldsAllowed {cfg : Config} {f : Fields} (h : fieldsAllowed cfg f = true) : legalOp f.op = true := by
  obtain ⟨e, he, hrow⟩ := List.any_eq_true.1 h
  obtain ⟨hop, -⟩ := Bool.and_eq_true_iff.1 hrow
  exact (legalOp_iff f.op).2 ⟨e, he, eq_of_beq hop⟩

/-- Allowed fields are those of a command: their `op` is in the map, and no must-be-zero field stops them. -/
theorem exists_instr_of_fieldsAllowed {cfg : Config} {f : Fields} (h : fieldsAllowed cfg f = true) :
    ∃ i, decodeFields f = .instr i := by
  obtain ⟨hl, -⟩ | ⟨fmt, hm, ⟨i, hd, -⟩ | ⟨-, hn⟩⟩ := decodeFields_cases f
  · cases hl.symm.trans (legalOp_of_fieldsAllowed h)
  · exact ⟨i, hd⟩
  · cases (hn cfg).symm.trans ((fieldsAllowed_of_mem hm cfg).symm.trans h)

/-- Settles O4: a word is packed from its fields, and those are the command's. -/
theorem encodeOfDecode : Obligations.EncodeOfDecode := by
  intro cw i h
  rw [encode, fieldsOf_of_decodeFields h, packWord_splitWord]

/-- The fields of a command are allowed exactly when it is well-formed, for the same parameters: the tables of R74 and R76 against the
part of check 2 that is made at execution. -/
theorem fieldsAllowed_fieldsOf (cfg : Config) (i : Instr) : fieldsAllowed cfg (fieldsOf i) = i.wellFormed cfg := by
  cases i with
  | status | build => rfl
  | setpoly imm | setinit imm | setxor imm | reflect imm =>
    rw [fieldsAllowed_of_mem (fmt := .a) (by simp [fieldsOf, opcodeMap])]
    simp [fieldsOf, formatAllows, Instr.wellFormed, Config.fitsOperand]
  | setref rin rout =>
    rw [fieldsAllowed_of_mem (fmt := .r) (by simp [fieldsOf, opcodeMap])]
    cases rin <;> cases rout <;> rfl
  | update c b =>
    rw [fieldsAllowed_of_mem (fmt := .cb) (by simp [fieldsOf, opcodeMap])]
    simp [fieldsOf, formatAllows, Instr.wellFormed, Config.hasContext, -BitVec.toNat_setWidth, toNat_setWidth_byte, b.isLt]
  | updatew c o n buf => rw [fieldsAllowed_of_mem (fmt := .cu) (by simp [fieldsOf, opcodeMap])]; rfl
  | reset c | value c =>
    rw [fieldsAllowed_of_mem (fmt := .c) (by simp [fieldsOf, opcodeMap])]
    simp [fieldsOf, formatAllows, Instr.wellFormed, Config.hasContext]
  | seed c imm =>
    rw [fieldsAllowed_of_mem (fmt := .ca) (by simp [fieldsOf, opcodeMap])]
    simp [fieldsOf, formatAllows, Instr.wellFormed, Config.hasContext, Config.fitsOperand]
  | table i =>
    rw [fieldsAllowed_of_mem (fmt := .x) (by simp [fieldsOf, opcodeMap])]
    simp [fieldsOf, formatAllows, Instr.wellFormed, -BitVec.toNat_setWidth, toNat_setWidth_byte, i.isLt]

/-! ## Words of the spec's programs, and the illegal opcodes (R77, R196) -/

/-- Settles O5: each of the fifteen words is decoded by evaluation. -/
theorem sampleWordsDecode : Obligations.SampleWordsDecode := by
  unfold Obligations.SampleWordsDecode
  decide

theorem decode_eq_illegal_iff (cw : CommandWord) : decode cw = .illegal ↔ legalOp (cw.extractLsb' 80 8) = false :=
  decodeFields_eq_illegal_iff (splitWord cw)

/-- The legal values of `op`, as numbers, are those of the rows of the map. -/
theorem legalOps_perm : ((List.range 256).filter fun n => legalOp (BitVec.ofNat 8 n)).Perm
    (opcodeMap.map fun e => e.1.toNat) := by
  refine (List.perm_ext_iff_of_nodup (List.nodup_range.filter _) (by decide)).2 fun n => ?_
  rw [List.mem_filter, List.mem_range, legalOp_iff, List.mem_map]
  constructor
  · rintro ⟨hn, e, he, hop⟩
    exact ⟨e, he, by rw [← hop, BitVec.toNat_ofNat, Nat.mod_eq_of_lt hn]⟩
  · rintro ⟨e, he, rfl⟩
    exact ⟨e.1.isLt, e, he, by simp⟩

/-- 256 values of `op` less the 13 rows of the map. -/
theorem length_illegalOps : ((List.range 256).filter fun n => legalOp (BitVec.ofNat 8 n) == false).length = 243 := by
  have legal := legalOps_perm.length_eq
  have all := List.length_eq_length_filter_add (l := List.range 256) fun n => legalOp (BitVec.ofNat 8 n)
  have rows : opcodeMap.length = 13 := rfl
  rw [legal, List.length_range, List.length_map, rows] at all
  simp only [beq_false]
  omega

/-- Settles O6: the decoder answers `illegal` outside the map only, and the map has 13 of the 256 values of `op`. -/
theorem illegalOpcodes : Obligations.IllegalOpcodes := by
  refine ⟨?_, decode_eq_illegal_iff, length_illegalOps, by decide, by decide⟩
  intro s cw h
  exact execWord_of_illegal s ((decode_eq_illegal_iff cw).2 h)

end Sys2Proof

/-! ## The order of the checks (R73, R198) -/

namespace Sys2Proof.Machine

/-- The status of a command's own check, check 4 of R73: UPDATEW's range and BUILD's staged configuration. -/
def ownStatus (s : State) : Instr → Status
  | .updatew _ o n _ => if 8 < o.toNat + n.toNat then .errRange else .ok
  | .build           => if stagedRefused s then .errConfig else .ok
  | .status | .setpoly _ | .setinit _ | .setxor _ | .setref _ _ | .update _ _ | .reset _ | .value _ | .seed _ _ | .table _
  | .reflect _       => .ok

theorem legalOp_opcode (i : Instr) : legalOp (opcode i) = true := by cases i <;> rfl

theorem fieldsOf_op (i : Instr) : (fieldsOf i).op = opcode i := by cases i <;> rfl

/-- The checks of R73 for the word of a command: its operands, CONFIGURED, its own check. -/
theorem expectedStatus_encode (s : State) (i : Instr) : expectedStatus s (encode i) =
    if i.wellFormed s.cfg = false then .errOperand
    else if needsConfigured (opcode i) = true ∧ s.configured = false then .errNotconf
    else ownStatus s i := by
  simp only [expectedStatus, encode, splitWord_packWord, fieldsAllowed_fieldsOf, fieldsOf_op, legalOp_opcode,
    Bool.true_eq_false, if_false]
  congr 2
  cases i with
  | updatew c o n buf =>
    have := n.isLt
    have range : (16 * o.toNat + n.toNat) / 16 + (16 * o.toNat + n.toNat) % 16 = o.toNat + n.toNat := by omega
    simp only [opcode, fieldsOf, ownStatus, toNat_sel_of_range, range, true_and]
    rfl
  | _ => simp [opcode, ownStatus]

/-! ### The operand checks, from well-formedness -/

section

variable {cfg : Config}

theorem lt_of_hasContext {c : BitVec 8} (h : cfg.hasContext c = true) : c.toNat < cfg.nctx := of_decide_eq_true h

theorem le_of_not_hasContext {c : BitVec 8} (h : cfg.hasContext c = false) : cfg.nctx ≤ c.toNat :=
  Nat.le_of_not_lt (of_decide_eq_false h)

theorem lt_of_fitsOperand {imm : Data} (h : cfg.fitsOperand imm = true) : imm.toNat < 2 ^ cfg.w := of_decide_eq_true h

theorem le_of_not_fitsOperand {imm : Data} (h : cfg.fitsOperand imm = false) : 2 ^ cfg.w ≤ imm.toNat :=
  Nat.le_of_not_lt (of_decide_eq_false h)

end

/-! ### The checks, one after the other -/

/-- `o` answers the status `st`, and nothing else is done when that is an error. -/
def Answers (s : State) (st : Status) (o : Host.Outcome State Fault Refusal) : Prop :=
  ∃ t d, o = .next t ∧ t.responses = s.responses ++ [⟨st, d⟩] ∧ (st ≠ .ok → t = respond s st 0)

theorem Answers.of_error {s : State} {e : Status} {o : Host.Outcome State Fault Refusal} (h : o = .next (respond s e 0)) :
    Answers s e o := ⟨_, 0, h, rfl, fun _ => rfl⟩

theorem Answers.of_ok {s u : State} {d : Data} (hu : u.responses = s.responses) : Answers s .ok (complete u d) :=
  ⟨_, d, rfl, by simp [hu], fun hne => absurd rfl hne⟩

/-- Check 2: a command that is not well-formed for W and NCTX. -/
theorem exec_of_not_wellFormed {s : State} {i : Instr} (h : i.wellFormed s.cfg = false) :
    exec i s = .next (respond s .errOperand 0) := by
  cases i with
  | status | setref | build | table => cases h
  | setpoly | setinit | setxor | reflect =>
    simp only [exec, execSetpoly, execSetinit, execSetxor, execReflect, withOperand_of_le _ (le_of_not_fitsOperand h)]
  | update | updatew | reset | value =>
    simp only [exec, execUpdate, execUpdatew, execReset, execValue, withContext_of_le _ (le_of_not_hasContext h)]
  | seed c imm =>
    rw [exec, execSeed]
    cases hc : s.cfg.hasContext c
    · exact withContext_of_le _ (le_of_not_hasContext hc)
    · rw [Instr.wellFormed, hc, Bool.true_and] at h
      rw [withContext_of_lt _ (lt_of_hasContext hc), withOperand_of_le _ (le_of_not_fitsOperand h)]

section

variable {s : State} {i : Instr} (hw : i.wellFormed s.cfg = true)

include hw

/-- Check 3: a well-formed command that needs a built engine, and there is none. -/
theorem exec_of_not_configured (hn : needsConfigured (opcode i) = true) (hc : s.configured = false) :
    exec i s = .next (respond s .errNotconf 0) := by
  cases i with
  | status | setpoly | setinit | setxor | setref | build | reflect => exact absurd hn (by simp [opcode, needsConfigured])
  | update | updatew | reset | value =>
    simp only [exec, execUpdate, execUpdatew, execReset, execValue, withContext_of_lt _ (lt_of_hasContext hw),
      whenConfigured_of_false _ hc]
  | seed c imm =>
    obtain ⟨hctx, himm⟩ := Bool.and_eq_true_iff.1 hw
    rw [exec, execSeed, withContext_of_lt _ (lt_of_hasContext hctx), withOperand_of_lt _ (lt_of_fitsOperand himm),
      whenConfigured_of_false _ hc]
  | table => exact whenConfigured_of_false _ hc

/-- Checks 4 and 5: a command that passes the others answers the status of its own check. -/
theorem exec_answers_ownStatus (hn : needsConfigured (opcode i) = true → s.configured = true) :
    Answers s (ownStatus s i) (exec i s) := by
  cases i with
  | status | setref => exact .of_ok rfl
  | setpoly | setinit | setxor | reflect =>
    simp only [exec, execSetpoly, execSetinit, execSetxor, execReflect, withOperand_of_lt _ (lt_of_fitsOperand hw)]
    exact .of_ok rfl
  | build =>
    cases h : stagedRefused s
    · rw [ownStatus, h, exec_build_of_accepted h]
      exact .of_ok rfl
    · rw [ownStatus, h]
      exact .of_error (exec_build_of_refused (by simp [h]))
  | update | reset | value =>
    simp only [exec, execUpdate, execReset, execValue, withContext_of_lt _ (lt_of_hasContext hw),
      whenConfigured_of_true _ (hn rfl)]
    exact .of_ok rfl
  | updatew c o n buf =>
    simp only [exec, execUpdatew, withContext_of_lt _ (lt_of_hasContext hw), whenConfigured_of_true _ (hn rfl), rangeInside_iff,
      ownStatus]
    rcases Nat.lt_or_ge 8 (o.toNat + n.toNat) with hr | hr
    · rw [if_pos hr, if_neg (Nat.not_le.2 hr)]
      exact .of_error rfl
    · rw [if_neg (Nat.not_lt.2 hr), if_pos hr]
      exact .of_ok rfl
  | seed c imm =>
    obtain ⟨hctx, himm⟩ := Bool.and_eq_true_iff.1 hw
    rw [exec, execSeed, withContext_of_lt _ (lt_of_hasContext hctx), withOperand_of_lt _ (lt_of_fitsOperand himm),
      whenConfigured_of_true _ (hn rfl)]
    exact .of_ok rfl
  | table =>
    rw [exec, execTable, whenConfigured_of_true _ (hn rfl)]
    exact .of_ok rfl

end

/-- The whole order of checks, for a command. -/
theorem exec_answers_expectedStatus (s : State) (i : Instr) : Answers s (expectedStatus s (encode i)) (exec i s) := by
  rw [expectedStatus_encode]
  cases hw : i.wellFormed s.cfg
  · exact .of_error (exec_of_not_wellFormed hw)
  · rw [if_neg (by decide)]
    split
    next h =>
      obtain ⟨hn, hc⟩ := h
      exact .of_error (exec_of_not_configured hw hn hc)
    next h => exact exec_answers_ownStatus hw fun hn => by simpa [hn] using h

/-- The whole order of checks, for a word. -/
theorem execWord_answers_expectedStatus (s : State) (cw : CommandWord) : Answers s (expectedStatus s cw) (execWord cw s) := by
  cases hd : decode cw with
  | instr i =>
    rw [execWord_of_instr s hd, ← encodeOfDecode cw i hd]
    exact exec_answers_expectedStatus s i
  | illegal =>
    have hst : expectedStatus s cw = .errIllegal := if_pos ((decode_eq_illegal_iff cw).1 hd)
    exact hst ▸ .of_error (execWord_of_illegal s hd)
  | operand =>
    have hl : ¬ legalOp (splitWord cw).op = false := fun h => by
      cases hd.symm.trans ((decode_eq_illegal_iff cw).2 h)
    have hst : expectedStatus s cw = .errOperand :=
      (if_neg hl).trans (if_pos (fieldsAllowed_of_operand hd s.cfg))
    exact hst ▸ .of_error (execWord_of_operand s hd)

/-- Settles O8: the checks in their order, decoded or not. -/
theorem checkOrder : Obligations.CheckOrder := execWord_answers_expectedStatus

/-- Settles O7: check 2 is the first to fail, and allowed fields are those of a command that is well-formed. -/
theorem operandErrors : Obligations.OperandErrors := by
  constructor
  · intro s cw hl hf
    have hst : expectedStatus s cw = .errOperand := by simp [expectedStatus, hl, hf]
    obtain ⟨t, d, ht, -, herr⟩ := checkOrder s cw
    rw [ht, herr (by simp [hst]), hst]
  · intro cfg cw hf
    obtain ⟨i, hd⟩ := exists_instr_of_fieldsAllowed hf
    have hi : fieldsOf i = splitWord cw := fieldsOf_of_decodeFields hd
    exact ⟨i, hd, by rw [← fieldsAllowed_fieldsOf, hi, hf], encodeOfDecode cw i hd⟩

/-! ## Every word is answered with one response (R4, R81) -/

/-- Whatever its status, a word appends one response and leaves the words that follow. -/
theorem execWord_appends_one (cw : CommandWord) (s : State) :
    ∃ t r, execWord cw s = .next t ∧ t.responses = s.responses ++ [r] ∧ t.pending = s.pending := by
  obtain ⟨t, d, ht, hr, -⟩ := execWord_answers_expectedStatus s cw
  refine ⟨t, _, ht, hr, ?_⟩
  obtain ⟨-, -, rfl⟩ | ⟨-, _, _, _, _, _, _, _, rfl⟩ := execWord_installs_or_keeps ht <;> rfl

/-- Settles O11: the word's one response, and the frame of a word over the words that follow. -/
theorem everyStepAnswers : Obligations.EveryStepAnswers := by
  intro s cw rest hp
  obtain ⟨t, r, ht, hr, hpend⟩ := execWord_appends_one cw { s with pending := rest }
  exact ⟨t, r, (step_cons s cw rest hp).trans ht, hpend, hr, by simp [position, hr]⟩

/-! ## The data of a response (R71) -/

/-- `d` is what R71 lets the `OK` response to `i` carry: 0 for a command without a result, a zero-extended W-bit value for every
command but STATUS. -/
def AllowedData (cfg : Config) (i : Instr) (d : Data) : Prop :=
  (hasResult i = false → d = 0) ∧ (i ≠ .status → ∃ v : BitVec cfg.w, d = zext64 v)

theorem zext64_zero (w : Nat) : zext64 (0 : BitVec w) = 0 := by simp [zext64]

theorem AllowedData.zero (cfg : Config) (i : Instr) : AllowedData cfg i 0 :=
  ⟨fun _ => rfl, fun _ => ⟨0, (zext64_zero _).symm⟩⟩

theorem AllowedData.result {cfg : Config} {i : Instr} (h : hasResult i = true) (v : BitVec cfg.w) :
    AllowedData cfg i (zext64 v) := ⟨fun hn => absurd (h.symm.trans hn) (by decide), fun _ => ⟨v, rfl⟩⟩

/-- `o` appends one response, an error with data 0 or `OK` with data of the command's kind. -/
def AnswersData (s : State) (i : Instr) (o : Host.Outcome State Fault Refusal) : Prop :=
  ∃ t r, o = .next t ∧ t.responses = s.responses ++ [r] ∧ (r.status ≠ .ok → r.data = 0) ∧ AllowedData s.cfg i r.data

section

variable {s u : State} {i : Instr} {o : Host.Outcome State Fault Refusal}

theorem AnswersData.of_no_data {st : Status} (h : o = .next (respond u st 0)) (hu : u.responses = s.responses) :
    AnswersData s i o := ⟨_, ⟨st, 0⟩, h, by simp [hu], fun _ => rfl, .zero _ _⟩

theorem AnswersData.of_data {d : Data} (h : o = .next (respond s .ok d)) (hd : AllowedData s.cfg i d) :
    AnswersData s i o := ⟨_, ⟨.ok, d⟩, h, rfl, fun hne => absurd rfl hne, hd⟩

end

/-- What each command answers, as data: 0 from every error and from every command that ends in a write. -/
theorem exec_answersData (s : State) (i : Instr) : AnswersData s i (exec i s) := by
  cases i with
  | status => exact .of_data rfl ⟨fun h => absurd h (by decide), fun h => absurd rfl h⟩
  | setpoly imm =>
    obtain h | ⟨_, h⟩ := execSetpoly_cases s imm <;> exact .of_no_data h rfl
  | setinit imm =>
    obtain h | ⟨_, h⟩ := execSetinit_cases s imm <;> exact .of_no_data h rfl
  | setxor imm =>
    obtain h | ⟨_, h⟩ := execSetxor_cases s imm <;> exact .of_no_data h rfl
  | setref rin rout => exact .of_no_data (u := setSRef s rin rout) rfl rfl
  | build =>
    obtain ⟨-, h⟩ | ⟨-, h⟩ := execBuild_cases s <;> exact .of_no_data h rfl
  | update c b =>
    obtain ⟨_, -, h⟩ | ⟨_, -, h⟩ := execUpdate_cases s c b <;> exact .of_no_data h rfl
  | updatew c o n buf =>
    obtain ⟨_, -, h⟩ | ⟨_, -, -, h⟩ := execUpdatew_cases s c o n buf <;> exact .of_no_data h rfl
  | reset c =>
    obtain ⟨_, -, h⟩ | ⟨_, -, h⟩ := execReset_cases s c <;> exact .of_no_data h rfl
  | value c =>
    obtain ⟨_, -, h⟩ | ⟨_, -, h⟩ := execValue_cases s c
    · exact .of_no_data h rfl
    · exact .of_data h (.result rfl _)
  | seed c imm =>
    obtain ⟨_, -, h⟩ | ⟨_, -, -, h⟩ := execSeed_cases s c imm <;> exact .of_no_data h rfl
  | table i =>
    obtain ⟨_, -, h⟩ | ⟨-, h⟩ := execTable_cases s i
    · exact .of_no_data h rfl
    · exact .of_data h (.result rfl _)
  | reflect imm =>
    obtain ⟨_, -, h⟩ | ⟨-, h⟩ := execReflect_cases s imm
    · exact .of_no_data h rfl
    · exact .of_data h (.result rfl _)

theorem eq_of_respond_responses {s : State} {st : Status} {d : Data} {r : Response}
    (h : (respond s st d).responses = s.responses ++ [r]) : r = ⟨st, d⟩ := by
  simpa using h.symm

/-- The data of the one response to a word. -/
theorem execWord_data {cw : CommandWord} {s t : State} {r : Response} (h : execWord cw s = .next t)
    (hr : t.responses = s.responses ++ [r]) : (r.status ≠ .ok → r.data = 0) ∧
      (∀ i, decode cw = .instr i → hasResult i = false → r.data = 0) ∧
      (decode cw ≠ .instr .status → ∃ v : BitVec s.cfg.w, r.data = zext64 v) := by
  cases hd : decode cw with
  | instr i =>
    obtain ⟨u, r', hu, hr', hok, hres, hzext⟩ := exec_answersData s i
    cases h.symm.trans ((execWord_of_instr s hd).trans hu)
    obtain rfl : r' = r := by simpa using hr'.symm.trans hr
    refine ⟨hok, ?_, fun hi => hzext fun h => hi (congrArg _ h)⟩
    rintro _ ⟨⟩
    exact hres
  | illegal =>
    cases h.symm.trans (execWord_of_illegal s hd)
    cases eq_of_respond_responses hr
    exact ⟨fun _ => rfl, fun _ _ _ => rfl, fun _ => ⟨0, (zext64_zero _).symm⟩⟩
  | operand =>
    cases h.symm.trans (execWord_of_operand s hd)
    cases eq_of_respond_responses hr
    exact ⟨fun _ => rfl, fun _ _ _ => rfl, fun _ => ⟨0, (zext64_zero _).symm⟩⟩

/-- Settles O2: the digits of the response word, the codes, and the data of the one response to each word. -/
theorem responseWordLayout : Obligations.ResponseWordLayout := by
  refine ⟨?_, ⟨rfl, rfl, rfl, rfl, rfl, rfl⟩, ?_, ?_⟩
  · intro r
    exact toNat_append_eq_add _ _
  · intro cfg v
    exact toNat_zext64 v cfg.w_le
  · intro cw s t r
    exact execWord_data

/-! ## The pseudo-instructions that run on a built engine (R83, R156) -/

section

variable {s : State} {c : BitVec 8} (h : c.toNat < s.cfg.nctx) (hc : s.configured = true)

include hc

theorem exec_update_of_configured (b : Byte) : exec (.update c b) s =
    .next (respond (writeCrc s ⟨c.toNat, h⟩ (upd s.aRef (readCrc s ⟨c.toNat, h⟩) b s.table)) .ok 0) := by
  rw [exec, execUpdate, withContext_of_lt _ h, whenConfigured_of_true _ hc, complete_eq_next]

theorem exec_reset_of_configured : exec (.reset c) s = .next (respond (writeCrc s ⟨c.toNat, h⟩ s.aInit) .ok 0) := by
  rw [exec, execReset, withContext_of_lt _ h, whenConfigured_of_true _ hc, complete_eq_next]

theorem exec_value_of_configured : exec (.value c) s =
    .next (respond s .ok (zext64 (fin s.aRef (readCrc s ⟨c.toNat, h⟩) s.aXor))) := by
  rw [exec, execValue, withContext_of_lt _ h, whenConfigured_of_true _ hc, complete_eq_next]

end

/-- The state in which context `c` has taken in `bytes`, each with its own `OK` response. -/
def absorb (s : State) (c : Fin s.cfg.nctx) (bytes : List Byte) : State :=
  { writeCrc s c (fold s.aRef (readCrc s c) bytes s.table) with
    responses := s.responses ++ List.replicate bytes.length ⟨.ok, 0⟩ }

theorem absorb_nil (s : State) (c : Fin s.cfg.nctx) : absorb s c [] = s := by
  simp [absorb, readCrc]

theorem absorb_cons (s : State) (c : Fin s.cfg.nctx) (b : Byte) (bytes : List Byte) :
    absorb s c (b :: bytes) =
      absorb (respond (writeCrc s c (upd s.aRef (readCrc s c) b s.table)) .ok 0) c bytes := by
  simp [absorb, writeCrc, respond, readCrc, List.replicate_succ]

/-- The register has folded the bytes. -/
theorem readCrc_absorb (s : State) (c : Fin s.cfg.nctx) (bytes : List Byte) :
    readCrc (absorb s c bytes) c = fold s.aRef (readCrc s c) bytes s.table := by
  simp [absorb, readCrc]

section

variable {s : State} {c : BitVec 8} (h : c.toNat < s.cfg.nctx) (hc : s.configured = true) (bytes : List Byte)

include h hc

theorem execAll_updateCommands : execAll (updateCommands c bytes) s = .next (absorb s ⟨c.toNat, h⟩ bytes) := by
  induction bytes generalizing s with
  | nil => rw [absorb_nil]; rfl
  | cons b rest ih =>
    rw [updateCommands, List.map_cons, execAll_cons_of_next s (exec_update_of_configured h hc b), absorb_cons]
    exact ih (s := respond (writeCrc s _ _) .ok 0) h hc

theorem execAll_updateCommands_value : execAll (updateCommands c bytes ++ [.value c]) s =
    .next (respond (absorb s ⟨c.toNat, h⟩ bytes) .ok
      (zext64 (fin s.aRef (fold s.aRef (readCrc s ⟨c.toNat, h⟩) bytes s.table) s.aXor))) := by
  have hv := exec_value_of_configured (s := absorb s ⟨c.toNat, h⟩ bytes) h hc
  rw [execAll_append s (execAll_updateCommands h hc bytes), ← readCrc_absorb]
  exact execAll_cons_of_next _ hv

/-- RESET, the message, VALUE: the answer is that of the message from A_INIT, with nothing left of what the register held. -/
theorem execAll_hash : ∃ t, execAll (.reset c :: (updateCommands c bytes ++ [.value c])) s = .next t ∧
    t.responses = s.responses ++ List.replicate (bytes.length + 1) ⟨.ok, 0⟩ ++
      [⟨.ok, zext64 (fin s.aRef (fold s.aRef s.aInit bytes s.table) s.aXor)⟩] := by
  rw [execAll_cons_of_next s (exec_reset_of_configured h hc),
    execAll_updateCommands_value (s := respond (writeCrc s ⟨c.toNat, h⟩ s.aInit) .ok 0) h hc bytes]
  refine ⟨_, rfl, ?_⟩
  simp [absorb, readCrc, List.replicate_succ]

end

/-- Settles O60: the runs of the three expansions, the message taken in byte by byte. -/
theorem hashComputes : Obligations.HashComputes := by
  refine ⟨?_, fun _ _ _ => ⟨rfl, rfl, rfl⟩, ?_, ?_⟩
  · intro s c bytes h hc
    obtain ⟨t, ht, hr⟩ := execAll_hash h hc bytes
    exact ⟨_, t, rfl, ht, hr⟩
  · intro s c h hc
    exact ⟨_, rfl, execAll_cons_of_next s (exec_reset_of_configured h hc)⟩
  · intro s c bytes h hc
    exact ⟨_, rfl, execAll_updateCommands h hc bytes⟩

end Sys2Proof.Machine
end

section
/-! Proofs of the statements of 40_table_generator.md: the arithmetic and the laws of a table entry, the corner cases of the
polynomial, and the effects and refusals of the five commands that construct an engine. -/

namespace Sys2Proof.Machine

/-! ## Table entries in the arithmetic of unsigned numbers (R106, R107) -/

section

variable {w : Nat} (poly v : BitVec w)

/-- The test `v[W-1]` and the shift that discards that bit, as a quotient and a product modulo `2^W`. -/
theorem toNat_stepNonref : (stepNonref poly v).toNat =
    if v.toNat / 2 ^ (w - 1) % 2 = 1 then (v.toNat * 2 % 2 ^ w) ^^^ poly.toNat else v.toNat * 2 % 2 ^ w := by
  have shift : (v <<< 1).toNat = v.toNat * 2 % 2 ^ w := by rw [BitVec.toNat_shiftLeft, Nat.shiftLeft_eq]
  simp only [stepNonref, BitVec.getLsbD, Nat.testBit_eq_decide_div_mod_eq, decide_eq_true_eq]
  split
  · rw [BitVec.toNat_xor, shift]
  · exact shift

theorem toNat_stepRef : (stepRef poly v).toNat = if v.toNat % 2 = 1 then (v.toNat / 2) ^^^ poly.toNat else v.toNat / 2 := by
  have shift : (v >>> 1).toNat = v.toNat / 2 := by rw [BitVec.toNat_ushiftRight, Nat.shiftRight_eq_div_pow, Nat.pow_one]
  simp only [stepRef, BitVec.getLsbD, Nat.testBit_eq_decide_div_mod_eq, decide_eq_true_eq, Nat.pow_zero, Nat.div_one]
  split
  · rw [BitVec.toNat_xor, shift]
  · exact shift

/-- What takes each step of one kind to a step of another takes their repetitions to each other. -/
theorem repeatStep_semiconj {α : Type} {φ : BitVec w → α} {f : BitVec w → BitVec w} {g : α → α} (h : ∀ u, φ (f u) = g (φ u))
    (n : Nat) : φ (repeatStep f n v) = g^[n] (φ v) := by
  rw [repeatStep_eq_iterate]
  exact Function.Semiconj.iterate_right h n v

end

/-- Settles O40: a step on W-bit values is the step on their numbers, and so are eight of them. -/
theorem entryArithmetic : Obligations.EntryArithmetic := by
  constructor
  · intro w poly i hw
    have start : (i.setWidth w <<< (w - 8)).toNat = i.toNat * 2 ^ (w - 8) % 2 ^ w := by
      rw [BitVec.toNat_shiftLeft, BitVec.toNat_setWidth_of_le hw, Nat.shiftLeft_eq]
    rw [tabNonref, ← start]
    exact repeatStep_semiconj _ (toNat_stepNonref poly) 8
  · intro w poly i hw
    rw [tabRef, ← BitVec.toNat_setWidth_of_le hw]
    exact repeatStep_semiconj _ (toNat_stepRef (reflect poly)) 8

/-! ## Bit reversal (R170) -/

section

variable {w : Nat}

theorem reflect_xor (x y : BitVec w) : reflect (x ^^^ y) = reflect x ^^^ reflect y :=
  eq_of_bits fun j hj => by simp only [BitVec.getLsbD_xor, getLsbD_reflect _ j hj]

theorem reflect_zero : reflect (0 : BitVec w) = 0 :=
  eq_of_bits fun j hj => by simp [getLsbD_reflect _ j hj]

/-- The reversal turns the shift towards the top bit into the shift towards bit 0. -/
theorem reflect_shiftLeft_one (v : BitVec w) : reflect (v <<< 1) = reflect v >>> 1 := by
  refine eq_of_bits fun j hj => ?_
  rw [getLsbD_reflect _ j hj, BitVec.getLsbD_shiftLeft, BitVec.getLsbD_ushiftRight]
  rcases Nat.lt_or_ge (1 + j) w with h | h
  · have hpos : ¬ w - 1 - j < 1 := by omega
    have hsame : w - 1 - j - 1 = w - 1 - (1 + j) := by omega
    rw [getLsbD_reflect _ _ h, hsame]
    simp [hpos, show w - 1 - j < w by omega]
  · rw [BitVec.getLsbD_of_ge _ _ h]
    simp [show w - 1 - j < 1 by omega]

end

/-! ## Linearity, the mirror image, and what a table depends on (R114) -/

section

variable {w : Nat}

theorem reflect_stepNonref (poly v : BitVec w) : reflect (stepNonref poly v) = stepRef (reflect poly) (reflect v) := by
  have low : (reflect v).getLsbD 0 = v.getLsbD (w - 1) := by
    rcases Nat.eq_zero_or_pos w with rfl | hw
    · simp
    · exact getLsbD_reflect v 0 hw
  rw [stepNonref, stepRef, low]
  split
  · rw [reflect_xor, reflect_shiftLeft_one]
  · exact reflect_shiftLeft_one v

/-- The reversal of the byte in the top byte is the reversed byte in the low byte. -/
theorem reflect_byte_at_top (i : Byte) (hw : 8 ≤ w) : reflect ((reflect i).setWidth w <<< (w - 8)) = i.setWidth w := by
  refine eq_of_bits fun j hj => ?_
  rw [getLsbD_reflect _ j hj, BitVec.getLsbD_shiftLeft, BitVec.getLsbD_setWidth, BitVec.getLsbD_setWidth]
  rcases Nat.lt_or_ge j 8 with h | h
  · have hidx : 8 - 1 - (w - 1 - j - (w - 8)) = j := by omega
    rw [getLsbD_reflect _ _ (by omega), hidx]
    simp [hj, show w - 1 - j < w by omega, show ¬ w - 1 - j < w - 8 by omega, show w - 1 - j - (w - 8) < w by omega]
  · rw [BitVec.getLsbD_of_ge i j h]
    simp [show w - 1 - j < w - 8 by omega]

theorem tabRef_eq_reflect_tabNonref (poly : BitVec w) (i : Byte) (hw : 8 ≤ w) :
    tabRef poly i = reflect (tabNonref poly (reflect i)) := by
  rw [tabRef, tabNonref, repeatStep_semiconj _ (reflect_stepNonref poly), reflect_byte_at_top i hw, repeatStep_eq_iterate]

/-- The first value of either mode is linear in the index, and so are the steps. -/
theorem tabEntry_xor (ref : Bool) (poly : BitVec w) (a b : Byte) :
    tabEntry ref poly (a ^^^ b) = tabEntry ref poly a ^^^ tabEntry ref poly b := by
  have start : (a ^^^ b).setWidth w = a.setWidth w ^^^ b.setWidth w := BitVec.setWidth_xor
  cases ref
  · simp only [tabEntry, tabNonref, Bool.false_eq_true, if_false, start, BitVec.shiftLeft_xor_distrib]
    exact repeatStep_xor (stepNonref_xor poly) 8 _ _
  · simp only [tabEntry, tabRef, if_true, start]
    exact repeatStep_xor (stepRef_xor (reflect poly)) 8 _ _

end

/-- BUILD on equal reflection bits and, with the closed form, the one configuration its datapath implements. -/
theorem exec_build_of_equal_bits {s : State} (href : s.sRefin = s.sRefout)
    (hclosed : s.cfg.closedForm = true → s.sRefin = true ∧ s.sPoly.toNat = 0x1021) :
    exec .build s = .next (respond (installEngine s) .ok 0) :=
  exec_build_of_accepted ((stagedRefused_eq_false_iff s).2 ((buildAccepts_iff s).2 ⟨href, hclosed⟩))

/-- Settles O41: linear steps from a linear start, reversal step by step, and a table that is built from the staged polynomial
and reflection bit alone. -/
theorem tableLaws : Obligations.TableLaws := by
  refine ⟨fun _ => tabEntry_xor, fun _ poly i hw => tabRef_eq_reflect_tabNonref poly i hw, ?_⟩
  intro s t u n x ht hu href hclosed i
  cases ht.symm.trans (exec_build_of_equal_bits href hclosed)
  cases hu.symm.trans (exec_build_of_equal_bits (s := { s with sInit := n, sXor := x }) href hclosed)
  rfl

/-! ## Corner cases of the polynomial (R112) -/

section

variable {w : Nat}

theorem repeatStep_stepNonref_zero (n : Nat) (v : BitVec w) : repeatStep (stepNonref 0) n v = v <<< n := by
  induction n generalizing v with
  | zero => simp [repeatStep]
  | succ n ih =>
    have step : stepNonref 0 v = v <<< 1 := by simp [stepNonref]
    rw [repeatStep, step, ih, ← BitVec.shiftLeft_add, Nat.add_comm]

/-- With the zero polynomial all that eight steps do is to shift the index out. -/
theorem tabNonref_zero_poly (i : Byte) (hw : 8 ≤ w) : tabNonref (0 : BitVec w) i = 0 := by
  rw [tabNonref, repeatStep_stepNonref_zero, ← BitVec.shiftLeft_add, Nat.sub_add_cancel hw,
    BitVec.shiftLeft_eq_zero (Nat.le_refl w)]
  rfl

theorem tabEntry_zero_poly (ref : Bool) (i : Byte) (hw : 8 ≤ w) : tabEntry ref (0 : BitVec w) i = 0 := by
  cases ref
  · exact tabNonref_zero_poly i hw
  · calc tabRef (0 : BitVec w) i = reflect (tabNonref 0 (reflect i)) := tabRef_eq_reflect_tabNonref 0 i hw
      _ = 0 := by rw [tabNonref_zero_poly _ hw, reflect_zero]

theorem upd_zero_poly (ref : Bool) (r : BitVec w) (b : Byte) (hw : 8 ≤ w) :
    upd ref r b (buildTable ref 0) = if ref then r >>> 8 else r <<< 8 := by
  have entry (i : Byte) : readEntry (buildTable ref (0 : BitVec w)) i = 0#w := by
    rw [readEntry_buildTable]
    exact tabEntry_zero_poly ref i hw
  cases ref <;> simp only [upd, updRef, updNonref, entry, BitVec.xor_zero, if_true, Bool.false_eq_true, if_false]

theorem tabEntry_index_zero (ref : Bool) (poly : BitVec w) : tabEntry ref poly 0 = 0 := by
  have h := tabEntry_xor ref poly 0 0
  rwa [BitVec.xor_self, BitVec.xor_self] at h

/-- A single bit `n` places below the top reaches the top in `n` steps without a test that succeeds, and leaves the polynomial
in the step that shifts it out. -/
theorem repeatStep_stepNonref_twoPow (poly : BitVec w) {n : Nat} (hn : n < w) :
    repeatStep (stepNonref poly) (n + 1) (BitVec.twoPow w (w - 1 - n)) = poly := by
  have shift (k : Nat) : BitVec.twoPow w k <<< 1 = BitVec.twoPow w (k + 1) := by
    rw [BitVec.twoPow_eq, BitVec.twoPow_eq, BitVec.shiftLeft_add]
  induction n with
  | zero =>
    have out : BitVec.twoPow w (w - 1 + 1) = 0#w := by
      rw [BitVec.twoPow_eq, BitVec.shiftLeft_eq_zero (by omega)]
    simp [repeatStep, stepNonref, shift, out, BitVec.getLsbD_twoPow, hn, -BitVec.getLsbD_eq_getElem]
  | succ n ih =>
    have next : w - 1 - (n + 1) + 1 = w - 1 - n := by omega
    have step : stepNonref poly (BitVec.twoPow w (w - 1 - (n + 1))) = BitVec.twoPow w (w - 1 - n) := by
      have low : ¬ w - 1 - (n + 1) = w - 1 := by omega
      simp [stepNonref, shift, next, BitVec.getLsbD_twoPow, low, -BitVec.getLsbD_eq_getElem]
    rw [repeatStep, step, ih (by omega)]

theorem tabNonref_index_one (poly : BitVec w) (hw : 8 ≤ w) : tabNonref poly 1 = poly := by
  have start : (1 : Byte).setWidth w <<< (w - 8) = BitVec.twoPow w (w - 1 - 7) := by
    have one : (1 : Byte).setWidth w = 1#w := BitVec.setWidth_ofNat_one_eq_ofNat_one_of_lt (by decide)
    rw [one, BitVec.twoPow_eq, Nat.sub_sub]
  rw [tabNonref, start, repeatStep_stepNonref_twoPow poly (by omega)]

theorem tabRef_index_0x80 (poly : BitVec w) (hw : 8 ≤ w) : tabRef poly 0x80 = reflect poly := by
  have mirror : reflect (0x80 : Byte) = 1 := by decide
  rw [tabRef_eq_reflect_tabNonref poly _ hw, mirror, tabNonref_index_one poly hw]

end

/-- Settles O42: the zero polynomial shifts the index out, and the other corner cases follow from linearity, from the one bit
that eight steps turn into the polynomial, and from the mirror image of that. -/
theorem tableCorners : Obligations.TableCorners :=
  ⟨fun _ ref i hw => tabEntry_zero_poly ref i hw, fun _ ref r b hw => upd_zero_poly ref r b hw,
    fun _ => tabEntry_index_zero, fun _ => tabNonref_index_one, fun _ => tabRef_index_0x80⟩

/-! ## When BUILD refuses (R105, R183, R192) -/

/-- The refused configurations: unequal reflection bits, or with the closed form another one than the reflected 0x1021. -/
theorem stagedRefused_iff (s : State) : stagedRefused s = true ↔
    s.sRefin ≠ s.sRefout ∨ (s.cfg.closedForm = true ∧ ¬ (s.sRefin = true ∧ s.sPoly.toNat = 0x1021)) := by
  rw [stagedRefused, decide_eq_true_iff, and_comm (a := s.sRefin = true)]

/-- With equal reflection bits it makes no difference whether the closed form asks for one of them or for both. -/
theorem stagedRefused_iff_both (s : State) : stagedRefused s = true ↔ s.sRefin ≠ s.sRefout ∨
    (s.cfg.closedForm = true ∧ ¬ (s.sPoly.toNat = 0x1021 ∧ s.sRefin = true ∧ s.sRefout = true)) := by
  rw [stagedRefused_iff]
  cases s.sRefin <;> cases s.sRefout <;> simp

theorem exec_build_of_stagedRefused {s : State} (h : stagedRefused s = true) :
    exec .build s = .next (respond s .errConfig 0) :=
  exec_build_of_refused (by simp [h])

/-- `ERR_CONFIG` is the status of no check but BUILD's own. -/
theorem build_of_expectedStatus_eq_errConfig {s : State} {cw : CommandWord} (h : expectedStatus s cw = .errConfig) :
    decode cw = .instr .build ∧ stagedRefused s = true := by
  obtain ⟨t, d, ht, hr, -⟩ := checkOrder s cw
  rw [h] at hr
  cases hd : decode cw with
  | illegal =>
    cases ht.symm.trans (execWord_of_illegal s hd)
    cases eq_of_respond_responses hr
  | operand =>
    cases ht.symm.trans (execWord_of_operand s hd)
    cases eq_of_respond_responses hr
  | instr i =>
    rw [← encodeOfDecode cw i hd, expectedStatus_encode] at h
    split_ifs at h
    cases i with
    | build => exact ⟨rfl, by simpa [ownStatus] using h⟩
    | updatew => rw [ownStatus] at h; split at h <;> cases h
    | _ => cases h

/-- Settles O30: BUILD's own check, and the order of the checks for every word that answers `ERR_CONFIG`. -/
theorem buildRefusals : Obligations.BuildRefusals := by
  refine ⟨?_, ?_, ?_⟩
  · intro s href
    exact exec_build_of_stagedRefused ((stagedRefused_iff s).2 (.inl href))
  · intro s hclosed hother
    exact exec_build_of_stagedRefused ((stagedRefused_iff_both s).2 (.inr ⟨hclosed, hother⟩))
  · intro cw s t d ht hr
    obtain ⟨u, d', hu, hru, -⟩ := checkOrder s cw
    cases hu.symm.trans ht
    have hst : expectedStatus s cw = .errConfig := by simpa using congrArg (List.map Response.status) (hru.symm.trans hr)
    obtain ⟨hd, hrefused⟩ := build_of_expectedStatus_eq_errConfig hst
    exact ⟨hd, (stagedRefused_iff_both s).1 hrefused⟩

/-! ## The words of the commands (R73, R74) -/

/-- The word of a command runs the command. -/
theorem execWord_encode (i : Instr) (s : State) : execWord (encode i) s = exec i s :=
  execWord_of_instr s (decodeOfEncode i)

/-- A word whose fields its opcode's format does not allow responds `ERR_OPERAND` and changes nothing. -/
theorem execWord_of_not_formatAllows {s : State} {f : Fields} {fmt : Format} (hm : (f.op, fmt) ∈ opcodeMap)
    (h : formatAllows s.cfg f fmt = false) : execWord (packWord f) s = .next (respond s .errOperand 0) := by
  refine operandErrors.1 s (packWord f) ?_ ?_
  · rw [splitWord_packWord, legalOp_of_mem hm]
  · rw [splitWord_packWord, fieldsAllowed_of_mem hm, h]

section

variable {s : State} {op ctx sel : BitVec 8} {arg : Data}

/-- A word of a format without a context, whose `arg` must satisfy `p`. -/
theorem execWord_errOperand_of_no_context {fmt : Format} {p : Prop} [Decidable p] (hm : (op, fmt) ∈ opcodeMap)
    (hfmt : formatAllows s.cfg ⟨op, ctx, sel, arg⟩ fmt = decide (ctx.toNat = 0 ∧ sel.toNat = 0 ∧ p))
    (h : ctx ≠ 0 ∨ sel ≠ 0 ∨ ¬ p) : execWord (packWord ⟨op, ctx, sel, arg⟩) s = .next (respond s .errOperand 0) := by
  refine execWord_of_not_formatAllows hm (hfmt.trans (decide_eq_false ?_))
  rintro ⟨hctx, hsel, harg⟩
  obtain h | h | h := h
  · exact h (BitVec.eq_of_toNat_eq hctx)
  · exact h (BitVec.eq_of_toNat_eq hsel)
  · exact h harg

theorem execWord_formatA_errOperand (hm : (op, Format.a) ∈ opcodeMap) (h : ctx ≠ 0 ∨ sel ≠ 0 ∨ 2 ^ s.cfg.w ≤ arg.toNat) :
    execWord (packWord ⟨op, ctx, sel, arg⟩) s = .next (respond s .errOperand 0) :=
  execWord_errOperand_of_no_context hm rfl (h.imp_right (.imp_right Nat.not_lt.2))

theorem execWord_formatR_errOperand (hm : (op, Format.r) ∈ opcodeMap) (h : ctx ≠ 0 ∨ sel ≠ 0 ∨ 4 ≤ arg.toNat) :
    execWord (packWord ⟨op, ctx, sel, arg⟩) s = .next (respond s .errOperand 0) :=
  execWord_errOperand_of_no_context hm rfl (h.imp_right (.imp_right Nat.not_lt.2))

theorem execWord_formatN_errOperand (hm : (op, Format.n) ∈ opcodeMap) (h : ctx ≠ 0 ∨ sel ≠ 0 ∨ arg ≠ 0) :
    execWord (packWord ⟨op, ctx, sel, arg⟩) s = .next (respond s .errOperand 0) :=
  execWord_errOperand_of_no_context hm rfl (h.imp_right (.imp_right (mt fun harg => BitVec.eq_of_toNat_eq harg)))

end

/-! ## The staging commands (R100 to R103) -/

/-- An operand that fits is passed on as the W-bit value of its number. -/
theorem withOperand_of_fits {s : State} {imm : Data} (k : BitVec s.cfg.w → Host.Outcome State Fault Refusal)
    (h : imm.toNat < 2 ^ s.cfg.w) : withOperand s imm k = k (BitVec.ofNat s.cfg.w imm.toNat) := by
  rw [withOperand_of_lt k h, BitVec.ofNat_toNat]

/-- Settles O25: the operand fits, or the word is refused by format A. -/
theorem setpolyEffect : Obligations.SetpolyEffect := by
  refine ⟨?_, fun s arg => execWord_encode (.setpoly arg) s, fun s ctx sel arg => execWord_formatA_errOperand (by decide)⟩
  intro s imm h
  rw [exec, execSetpoly, withOperand_of_fits _ h]
  rfl

/-- Settles O26: the operand fits, or the word is refused by format A. -/
theorem setinitEffect : Obligations.SetinitEffect := by
  refine ⟨?_, fun s arg => execWord_encode (.setinit arg) s, fun s ctx sel arg => execWord_formatA_errOperand (by decide)⟩
  intro s imm h
  rw [exec, execSetinit, withOperand_of_fits _ h]
  rfl

/-- Settles O27: the operand fits, or the word is refused by format A. -/
theorem setxorEffect : Obligations.SetxorEffect := by
  refine ⟨?_, fun s arg => execWord_encode (.setxor arg) s, fun s ctx sel arg => execWord_formatA_errOperand (by decide)⟩
  intro s imm h
  rw [exec, execSetxor, withOperand_of_fits _ h]
  rfl

/-- The two flags of SETREF are the two binary digits of `arg`. -/
theorem fieldsOf_setref_digits {arg : Data} (h : arg.toNat < 4) :
    fieldsOf (.setref (arg.toNat % 2 == 1) (arg.toNat / 2 == 1)) = ⟨0x13#8, 0, 0, arg⟩ := by
  obtain ⟨n, hn, rfl⟩ : ∃ n, n < 4 ∧ arg = BitVec.ofNat 64 n := ⟨arg.toNat, h, by simp⟩
  interval_cases n <;> rfl

/-- Settles O28: SETREF has no check of its own, and its word none but that of format R. -/
theorem setrefEffect : Obligations.SetrefEffect := by
  refine ⟨fun _ _ _ => rfl, ?_, fun s ctx sel arg => execWord_formatR_errOperand (by decide)⟩
  intro s arg h
  rw [← fieldsOf_setref_digits h]
  exact execWord_encode _ s

/-! ## BUILD (R104, R108, R111) -/

/-- The table a BUILD writes, entry by entry. -/
theorem buildTable_eq_ofFn {w : Nat} (ref : Bool) (poly : BitVec w) : buildTable ref poly =
    Vector.ofFn fun i : Fin 256 => if ref then tabRef poly (BitVec.ofNat 8 i.val) else tabNonref poly (BitVec.ofNat 8 i.val) := by
  refine table_ext fun i => ?_
  rw [readEntry_buildTable]
  simp [readEntry, tabEntry]

theorem replicate_eq_ofFn {α : Type} (n : Nat) (a : α) : Vector.replicate n a = Vector.ofFn fun _ => a := by
  ext i hi
  simp

/-- Settles O29: BUILD's check decides between the writes of `installEngine` and its error, whatever engine there is. -/
theorem buildEffect : Obligations.BuildEffect := by
  refine ⟨?_, ?_, fun s => execWord_encode .build s, fun s ctx sel arg => execWord_formatN_errOperand (by decide)⟩
  · intro s href hclosed
    rw [exec_build_of_equal_bits href hclosed, respond, installEngine, buildTable_eq_ofFn, replicate_eq_ofFn]
  · intro s h
    exact exec_build_of_stagedRefused ((stagedRefused_iff s).2 h)

end Sys2Proof.Machine
end

section
/-! Proofs of the statements of 41_update_engine.md: the per-byte updates in numbers and as bit-serial division, the effects of
UPDATE and UPDATEW, and the delivery of a message in pieces. -/

namespace Sys2Proof.Machine

/-! ## The updates in the arithmetic of unsigned numbers (R120, R121, R123) -/

section

variable {w : Nat}

theorem lowByte_eq_ofNat (x : BitVec w) (hw : 8 ≤ w) : lowByte x = BitVec.ofNat 8 x.toNat :=
  BitVec.eq_of_toNat_eq (by rw [toNat_lowByte x hw, BitVec.toNat_ofNat])

theorem fold_eq_foldl (ref : Bool) (r : BitVec w) (bs : List Byte) (T : Table w) :
    fold ref r bs T = bs.foldl (fun v b => upd ref v b T) r := by
  induction bs generalizing r with
  | nil => rfl
  | cons b rest ih => rw [fold_cons, ih, List.foldl_cons]

theorem fold_append (ref : Bool) (r : BitVec w) (xs ys : List Byte) (T : Table w) :
    fold ref r (xs ++ ys) T = fold ref (fold ref r xs T) ys T := by
  simp only [fold_eq_foldl, List.foldl_append]

end

/-- Settles O44: the shift and the table index as numbers; the index takes the low 8 bits whether or not that is said again. -/
theorem updateArithmetic : Obligations.UpdateArithmetic := by
  refine ⟨?_, ?_, fun _ _ _ _ => ⟨rfl, rfl⟩, fun _ => fold_eq_foldl⟩
  · intro w r b T hw
    have index : lowByte (r ^^^ b.setWidth w) = BitVec.ofNat 8 ((r.toNat ^^^ b.toNat) % 256) := by
      rw [lowByte_eq_ofNat _ hw, BitVec.toNat_xor, BitVec.toNat_setWidth_of_le hw]
      exact BitVec.eq_of_toNat_eq (by simp only [BitVec.toNat_ofNat, Nat.reducePow, Nat.mod_mod])
    rw [updRef, BitVec.toNat_xor, index, BitVec.toNat_ushiftRight, Nat.shiftRight_eq_div_pow]
  · intro w r b T hw
    have index : lowByte ((r >>> (w - 8)) ^^^ b.setWidth w) = BitVec.ofNat 8 ((r.toNat / 2 ^ (w - 8)) ^^^ b.toNat) := by
      rw [lowByte_eq_ofNat _ hw, BitVec.toNat_xor, BitVec.toNat_setWidth_of_le hw, BitVec.toNat_ushiftRight,
        Nat.shiftRight_eq_div_pow]
    rw [updNonref, BitVec.toNat_xor, index, BitVec.toNat_shiftLeft, Nat.shiftLeft_eq]

/-! ## A table update is a bit-serial division (R129)

A value is a byte in the 8 places the steps test, plus a rest that is 0 there. The steps only shift the rest, and they make of
the byte its table entry. -/

section

variable {w : Nat}

/-- While the tested bits are 0 the steps only shift. -/
theorem repeatStep_stepRef_of_low_zero (p : BitVec w) {n : Nat} {v : BitVec w} (h : ∀ j < n, v.getLsbD j = false) :
    repeatStep (stepRef p) n v = v >>> n := by
  induction n generalizing v with
  | zero => simp [repeatStep]
  | succ n ih =>
    have step : stepRef p v = v >>> 1 := by rw [stepRef, h 0 (by omega)]; rfl
    have low (j : Nat) (hj : j < n) : (v >>> 1).getLsbD j = false := by
      rw [BitVec.getLsbD_ushiftRight]
      exact h _ (by omega)
    rw [repeatStep, step, ih low, ← BitVec.shiftRight_add, Nat.add_comm]

theorem repeatStep_stepNonref_of_high_zero (p : BitVec w) {n : Nat} {v : BitVec w}
    (h : ∀ j < n, v.getLsbD (w - 1 - j) = false) : repeatStep (stepNonref p) n v = v <<< n := by
  induction n generalizing v with
  | zero => simp [repeatStep]
  | succ n ih =>
    have top : v.getLsbD (w - 1) = false := h 0 (by omega)
    have step : stepNonref p v = v <<< 1 := by rw [stepNonref, top]; rfl
    have high (j : Nat) (hj : j < n) : (v <<< 1).getLsbD (w - 1 - j) = false := by
      have next : w - 1 - j - 1 = w - 1 - (j + 1) := by omega
      rw [BitVec.getLsbD_shiftLeft, next, h _ (by omega), Bool.and_false]
    rw [repeatStep, step, ih high, ← BitVec.shiftLeft_add, Nat.add_comm]

/-! A byte in the low and in the top 8 places. -/

theorem byte_ushiftRight_eight (b : Byte) : b.setWidth w >>> 8 = 0#w :=
  eq_of_bits fun j _ => by simp [BitVec.getLsbD_setWidth]

theorem byte_at_top_shiftLeft_eight (b : Byte) (hw : 8 ≤ w) : (b.setWidth w <<< (w - 8)) <<< 8 = 0#w := by
  rw [← BitVec.shiftLeft_add, Nat.sub_add_cancel hw, BitVec.shiftLeft_eq_zero (Nat.le_refl w)]

theorem byte_at_top_ushiftRight (b : Byte) (hw : 8 ≤ w) : (b.setWidth w <<< (w - 8)) >>> (w - 8) = b.setWidth w := by
  refine eq_of_bits fun j hj => ?_
  rw [BitVec.getLsbD_ushiftRight, BitVec.getLsbD_shiftLeft, Nat.add_sub_cancel_left, BitVec.getLsbD_setWidth]
  rcases Nat.lt_or_ge j 8 with h | h
  · simp [hj, show w - 8 + j < w by omega]
  · rw [BitVec.getLsbD_of_ge b j h, Bool.and_false, Bool.and_false]

/-- Without its low byte a value is 0 there. -/
theorem getLsbD_xor_lowByte (x : BitVec w) (hw : 8 ≤ w) (j : Nat) (hj : j < 8) :
    (x ^^^ (lowByte x).setWidth w).getLsbD j = false := by
  have hjw : j < w := by omega
  rw [BitVec.getLsbD_xor, BitVec.getLsbD_setWidth, getLsbD_lowByte x j hw, decide_eq_true hj, decide_eq_true hjw,
    Bool.true_and, Bool.true_and, Bool.xor_self]

/-- Without its top byte a value is 0 there. -/
theorem getLsbD_xor_topByte (x : BitVec w) (hw : 8 ≤ w) (j : Nat) (hj : j < 8) :
    (x ^^^ ((lowByte (x >>> (w - 8))).setWidth w <<< (w - 8))).getLsbD (w - 1 - j) = false := by
  have place : w - 1 - j - (w - 8) = 7 - j := by omega
  have back : w - 8 + (7 - j) = w - 1 - j := by omega
  have inside : w - 1 - j < w ∧ ¬ w - 1 - j < w - 8 ∧ 7 - j < w ∧ 7 - j < 8 := by omega
  rw [BitVec.getLsbD_xor, BitVec.getLsbD_shiftLeft, BitVec.getLsbD_setWidth, place, getLsbD_lowByte _ _ hw,
    BitVec.getLsbD_ushiftRight, back]
  simp [inside]

/-- Eight division steps shift a value by a byte and add the table entry of the byte shifted out: the one idea of a table. -/
theorem iterate_stepRef_eight (poly x : BitVec w) (hw : 8 ≤ w) :
    (stepRef (reflect poly))^[8] x = (x >>> 8) ^^^ tabRef poly (lowByte x) := by
  calc (stepRef (reflect poly))^[8] x
      = repeatStep (stepRef (reflect poly)) 8 ((x ^^^ (lowByte x).setWidth w) ^^^ (lowByte x).setWidth w) := by
        rw [repeatStep_eq_iterate, xor_cancel_right]
    _ = ((x ^^^ (lowByte x).setWidth w) >>> 8) ^^^ tabRef poly (lowByte x) := by
        rw [repeatStep_xor (stepRef_xor _), repeatStep_stepRef_of_low_zero _ (getLsbD_xor_lowByte x hw), tabRef]
    _ = (x >>> 8) ^^^ tabRef poly (lowByte x) := by
        rw [BitVec.ushiftRight_xor_distrib, byte_ushiftRight_eight, BitVec.xor_zero]

theorem iterate_stepNonref_eight (poly x : BitVec w) (hw : 8 ≤ w) :
    (stepNonref poly)^[8] x = (x <<< 8) ^^^ tabNonref poly (lowByte (x >>> (w - 8))) := by
  generalize hi : lowByte (x >>> (w - 8)) = i
  have high := getLsbD_xor_topByte x hw
  rw [hi] at high
  calc (stepNonref poly)^[8] x
      = repeatStep (stepNonref poly) 8 ((x ^^^ (i.setWidth w <<< (w - 8))) ^^^ (i.setWidth w <<< (w - 8))) := by
        rw [repeatStep_eq_iterate, xor_cancel_right]
    _ = ((x ^^^ (i.setWidth w <<< (w - 8))) <<< 8) ^^^ tabNonref poly i := by
        rw [repeatStep_xor (stepNonref_xor _), repeatStep_stepNonref_of_high_zero _ high, tabNonref]
    _ = (x <<< 8) ^^^ tabNonref poly i := by
        rw [BitVec.shiftLeft_xor_distrib, byte_at_top_shiftLeft_eight i hw, BitVec.xor_zero]

theorem updRef_eq_iterate (poly r : BitVec w) (b : Byte) (hw : 8 ≤ w) :
    updRef r b (buildTable true poly) = (stepRef (reflect poly))^[8] (r ^^^ b.setWidth w) := by
  have shifted : (r ^^^ b.setWidth w) >>> 8 = r >>> 8 := by
    rw [BitVec.ushiftRight_xor_distrib, byte_ushiftRight_eight, BitVec.xor_zero]
  rw [updRef, readEntry_buildTable, tabEntry, if_pos rfl, iterate_stepRef_eight poly _ hw, shifted]

theorem updNonref_eq_iterate (poly r : BitVec w) (b : Byte) (hw : 8 ≤ w) :
    updNonref r b (buildTable false poly) = (stepNonref poly)^[8] (r ^^^ (b.setWidth w <<< (w - 8))) := by
  have shifted : (r ^^^ (b.setWidth w <<< (w - 8))) <<< 8 = r <<< 8 := by
    rw [BitVec.shiftLeft_xor_distrib, byte_at_top_shiftLeft_eight b hw, BitVec.xor_zero]
  rw [updNonref, readEntry_buildTable, tabEntry, if_neg Bool.false_ne_true, iterate_stepNonref_eight poly _ hw, shifted,
    BitVec.ushiftRight_xor_distrib, byte_at_top_ushiftRight b hw]

theorem reflect_reflect (x : BitVec w) : reflect (reflect x) = x := by
  refine eq_of_bits fun j hj => ?_
  have back : w - 1 - (w - 1 - j) = j := by omega
  rw [getLsbD_reflect _ j hj, getLsbD_reflect _ _ (by omega), back]

/-- The two modes mirror each other step by step, and so byte by byte. -/
theorem updRef_eq_reflect_updNonref (poly r : BitVec w) (b : Byte) (hw : 8 ≤ w) :
    updRef r b (buildTable true poly) = reflect (updNonref (reflect r) (reflect b) (buildTable false poly)) := by
  rw [updNonref_eq_iterate _ _ _ hw, ← repeatStep_eq_iterate, repeatStep_semiconj _ (reflect_stepNonref poly), reflect_xor,
    reflect_reflect, reflect_byte_at_top b hw, updRef_eq_iterate _ _ _ hw]

theorem fold_true_eq_reflect_fold_false (poly r : BitVec w) (bs : List Byte) (hw : 8 ≤ w) :
    fold true r bs (buildTable true poly) = reflect (fold false (reflect r) (bs.map reflect) (buildTable false poly)) := by
  induction bs generalizing r with
  | nil => exact (reflect_reflect r).symm
  | cons b rest ih =>
    have head : reflect (upd true r b (buildTable true poly)) = upd false (reflect r) (reflect b) (buildTable false poly) := by
      rw [upd, if_pos rfl, updRef_eq_reflect_updNonref poly r b hw, reflect_reflect]
      rfl
    rw [fold_cons, ih, head, List.map_cons, fold_cons]

end

/-- Settles O45: the division of the byte in both modes, and the mirror image of the whole fold. -/
theorem updateIsBitSerialDivision : Obligations.UpdateIsBitSerialDivision :=
  ⟨fun _ => updRef_eq_iterate, fun _ => updNonref_eq_iterate, fun _ => fold_true_eq_reflect_fold_false⟩

/-! ## UPDATE and UPDATEW on a built engine (R124, R126, R127) -/

section

variable {s : State} {c : BitVec 8} (h : c.toNat < s.cfg.nctx) (hc : s.configured = true) {o n : BitVec 4} (buf : Data)

include hc

theorem exec_updatew_of_range (hr : o.toNat + n.toNat ≤ 8) : exec (.updatew c o n buf) s =
    .next (respond (writeCrc s ⟨c.toNat, h⟩
      (fold s.aRef (readCrc s ⟨c.toNat, h⟩) (lanes buf o.toNat n.toNat) s.table)) .ok 0) := by
  rw [exec, execUpdatew, withContext_of_lt _ h, whenConfigured_of_true _ hc, if_pos ((rangeInside_iff o n).2 hr),
    complete_eq_next]

include h

theorem exec_updatew_of_range_exceeded (hr : 8 < o.toNat + n.toNat) :
    exec (.updatew c o n buf) s = .next (respond s .errRange 0) := by
  rw [exec, execUpdatew, withContext_of_lt _ h, whenConfigured_of_true _ hc,
    if_neg (mt (rangeInside_iff o n).1 (Nat.not_le.2 hr)), fail_eq_next]

end

theorem writeCrc_readCrc (s : State) (c : Fin s.cfg.nctx) : writeCrc s c (readCrc s c) = s := by
  simp [writeCrc, readCrc]

/-- UPDATEW of one lane is UPDATE of that lane's byte, in every state: both make the same checks. -/
theorem exec_updatew_one (s : State) (c : BitVec 8) {o : BitVec 4} (buf : Data) (ho : o.toNat < 8) :
    exec (.updatew c o 1 buf) s = exec (.update c (lane buf o.toNat)) s := by
  have inside : rangeInside o 1 = true := (rangeInside_iff o 1).2 ho
  have one : (1 : BitVec 4).toNat = 1 := rfl
  simp only [exec, execUpdatew, execUpdate, inside, one, lanes_one, fold_cons, fold_nil, if_true]

/-- A word of a format with a context, whose `arg` must satisfy `p`. -/
theorem execWord_errOperand_of_context {s : State} {op ctx sel : BitVec 8} {arg : Data} {fmt : Format} {p : Prop} [Decidable p]
    (hm : (op, fmt) ∈ opcodeMap)
    (hfmt : formatAllows s.cfg ⟨op, ctx, sel, arg⟩ fmt = decide (ctx.toNat < s.cfg.nctx ∧ sel.toNat = 0 ∧ p))
    (h : s.cfg.nctx ≤ ctx.toNat ∨ sel ≠ 0 ∨ ¬ p) :
    execWord (packWord ⟨op, ctx, sel, arg⟩) s = .next (respond s .errOperand 0) := by
  refine execWord_of_not_formatAllows hm (hfmt.trans (decide_eq_false ?_))
  rintro ⟨hctx, hsel, harg⟩
  obtain h | h | h := h
  · exact Nat.not_le.2 hctx h
  · exact h (BitVec.eq_of_toNat_eq hsel)
  · exact h harg

/-- Settles O31: the four ways UPDATE and its word are answered. -/
theorem updateEffect : Obligations.UpdateEffect := by
  refine ⟨fun s c b h hc => exec_update_of_configured h hc b, ?_, ?_, ?_⟩
  · intro s ctx b
    rw [BitVec.ofNat_toNat]
    exact execWord_encode (.update ctx b) s
  · intro s ctx sel arg h
    exact execWord_errOperand_of_context (fmt := .cb) (by decide) rfl (h.imp_right (.imp_right Nat.not_lt.2))
  · intro s c b h hc
    exact exec_of_not_configured (decide_eq_true h) rfl hc

/-- The offset and the count of UPDATEW are the two hexadecimal digits of `sel`. -/
theorem fieldsOf_updatew_digits (ctx sel : BitVec 8) (arg : Data) :
    fieldsOf (.updatew ctx (BitVec.ofNat 4 (sel.toNat / 16)) (BitVec.ofNat 4 (sel.toNat % 16)) arg) =
      ⟨0x21#8, ctx, sel, arg⟩ := by
  have := sel.isLt
  have digits : BitVec.ofNat 8 (16 * (sel.toNat / 16 % 2 ^ 4) + sel.toNat % 16 % 2 ^ 4) = sel := by
    rw [← BitVec.toNat_inj, BitVec.toNat_ofNat]
    omega
  simp only [fieldsOf, BitVec.toNat_ofNat, digits]

/-- Settles O32: the range decides between the fold and `ERR_RANGE`, after the checks that UPDATE makes too. -/
theorem updatewEffect : Obligations.UpdatewEffect := by
  refine ⟨?_, ?_, fun s c _ buf => exec_updatew_one s c buf, ?_, ?_, ?_, ?_⟩
  · intro s c o n buf h hc hr
    rw [exec_updatew_of_range h hc buf hr, lanes_eq_map_range']
    rfl
  · intro s c o buf h hc ho
    have empty := exec_updatew_of_range h hc (n := 0) buf ho
    rwa [show (0 : BitVec 4).toNat = 0 from rfl, lanes_zero, fold_nil, writeCrc_readCrc] at empty
  · intro s c o n buf h hc hr
    exact exec_updatew_of_range_exceeded h hc buf hr
  · intro s ctx sel arg
    rw [← fieldsOf_updatew_digits]
    exact execWord_encode _ s
  · intro s c o n buf h
    exact exec_of_not_wellFormed (decide_eq_false (Nat.not_lt.2 h))
  · intro s c o n buf h hc
    exact exec_of_not_configured (decide_eq_true h) rfl hc

/-! ## Delivering a message in pieces (R128) -/

/-- `t` has the engine of `s`, and its `CRC[c]` has folded `bytes` from that of `s`. -/
def TakesIn (c : BitVec 8) (bytes : List Byte) (s t : State) : Prop :=
  ∃ p i x a b, ∃ C : Vector (BitVec s.cfg.w) s.cfg.nctx, ∃ R,
    (∀ h : c.toNat < s.cfg.nctx, C[c.toNat] = fold s.aRef (readCrc s ⟨c.toNat, h⟩) bytes s.table) ∧
    t = { s with sPoly := p, sInit := i, sXor := x, sRefin := a, sRefout := b, crc := C, responses := R }

theorem TakesIn.refl (c : BitVec 8) (s : State) : TakesIn c [] s s := ⟨_, _, _, _, _, _, _, fun _ => rfl, rfl⟩

theorem TakesIn.trans {c : BitVec 8} {xs ys : List Byte} {s t u : State} (hst : TakesIn c xs s t) (htu : TakesIn c ys t u) :
    TakesIn c (xs ++ ys) s u := by
  obtain ⟨_, _, _, _, _, D, _, hD, rfl⟩ := hst
  obtain ⟨p, i, x, a, b, C, R, hC, rfl⟩ := htu
  refine ⟨p, i, x, a, b, C, R, fun h => ?_, rfl⟩
  rw [fold_append, ← hD h]
  exact hC h

/-- The registers are compared as numbers, since their width is that of the state they stand in. -/
theorem TakesIn.of_crcData {c : BitVec 8} {bytes : List Byte} {s t : State} (hk : KeepsEngine s t)
    (hcrc : ∀ h : c.toNat < s.cfg.nctx,
      crcData t c.toNat = some (zext64 (fold s.aRef (readCrc s ⟨c.toNat, h⟩) bytes s.table))) : TakesIn c bytes s t := by
  obtain ⟨p, i, x, a, b, C, R, rfl⟩ := hk
  refine ⟨p, i, x, a, b, C, R, fun h => ?_, rfl⟩
  have same := (hcrc h).symm.trans (crcData_of_lt _ c.toNat (by exact h))
  exact ((zext64_inj s.cfg.w_le).1 (Option.some.inj same)).symm

section

variable {c : BitVec 8} {bytes : List Byte} {s t : State} (ht : TakesIn c bytes s t)

include ht

theorem TakesIn.configured (hc : s.configured = true) : t.configured = true := by
  obtain ⟨_, _, _, _, _, _, _, -, rfl⟩ := ht
  exact hc

protected theorem TakesIn.crcData (h : c.toNat < s.cfg.nctx) :
    crcData t c.toNat = some (zext64 (fold s.aRef (readCrc s ⟨c.toNat, h⟩) bytes s.table)) := by
  obtain ⟨_, _, _, _, _, C, _, hC, rfl⟩ := ht
  rw [← hC h]
  exact crcData_of_lt _ c.toNat (by exact h)

/-- VALUE answers the finalization of what the register has taken in. -/
theorem TakesIn.exec_value (h : c.toNat < s.cfg.nctx) (hc : s.configured = true) : exec (.value c) t = .next (respond t .ok
    (zext64 (fin s.aRef (fold s.aRef (readCrc s ⟨c.toNat, h⟩) bytes s.table) s.aXor))) := by
  obtain ⟨_, _, _, _, _, C, _, hC, rfl⟩ := ht
  rw [← hC h]
  exact exec_value_of_configured (by exact h) (by exact hc)

end

/-- What a command that is no BUILD, RESET or SEED of the context does to its register: it folds the bytes it delivers. -/
theorem crcData_of_exec {i : Instr} {c : BitVec 8} {s t : State} (hc : s.configured = true) (hi : interrupts c i = false)
    (ht : exec i s = .next t) (h : c.toNat < s.cfg.nctx) :
    crcData t c.toNat = some (zext64 (fold s.aRef (readCrc s ⟨c.toNat, h⟩) (delivered c i) s.table)) := by
  have other (hb : i ≠ .build) (ha : ∀ d, addressed i = some d → d ≠ c) (hd : delivered c i = []) :
      crcData t c.toNat = some (zext64 (fold s.aRef (readCrc s ⟨c.toNat, h⟩) (delivered c i) s.table)) := by
    rw [exec_keeps_crcData ht (fun ⟨e, _⟩ => hb e) fun d hd => mt BitVec.eq_of_toNat_eq (ha d hd), hd]
    exact crcData_of_lt s c.toNat h
  cases i with
  | build => cases hi
  | status | setpoly | setinit | setxor | setref | table | reflect => exact other nofun nofun rfl
  | reset d | seed d => exact other nofun (fun _ e => Option.some.inj e ▸ ne_of_beq_false hi) rfl
  | value d =>
    obtain ⟨_, -, rfl⟩ | ⟨_, _, rfl, rfl⟩ := writes_row_of_exec ht <;> exact crcData_of_lt _ c.toNat h
  | update d b =>
    by_cases hd : d = c
    · subst hd
      cases ht.symm.trans (exec_update_of_configured h hc b)
      rw [delivered, if_pos rfl]
      exact crcData_writeCrc_same s ⟨d.toNat, h⟩ _
    · exact other nofun (fun _ e => Option.some.inj e ▸ hd) (if_neg hd)
  | updatew d o n buf =>
    by_cases hd : d = c
    · subst hd
      by_cases hr : o.toNat + n.toNat ≤ 8
      · cases ht.symm.trans (exec_updatew_of_range h hc buf hr)
        rw [delivered, if_pos ⟨rfl, hr⟩]
        exact crcData_writeCrc_same s ⟨d.toNat, h⟩ _
      · cases ht.symm.trans (exec_updatew_of_range_exceeded h hc buf (Nat.not_le.1 hr))
        rw [delivered, if_neg (fun ⟨_, h'⟩ => hr h')]
        exact crcData_of_lt s d.toNat h
    · exact other nofun (fun _ e => Option.some.inj e ▸ hd) (if_neg fun ⟨e, _⟩ => hd e)

theorem exec_takesIn {i : Instr} {c : BitVec 8} {s t : State} (hc : s.configured = true) (hi : interrupts c i = false)
    (ht : exec i s = .next t) : TakesIn c (delivered c i) s t := by
  refine .of_crcData (exec_keepsEngine ht ?_) (crcData_of_exec hc hi ht)
  rintro ⟨rfl, -⟩
  cases hi

/-- A list of such commands takes in all that its commands deliver, in their order. -/
theorem execAll_takesIn {cmds : List Instr} {c : BitVec 8} {s t : State} (hc : s.configured = true)
    (hcmds : ∀ i ∈ cmds, interrupts c i = false) (ht : execAll cmds s = .next t) :
    TakesIn c (cmds.flatMap (delivered c)) s t := by
  induction cmds generalizing s with
  | nil => cases ht; exact .refl c _
  | cons i rest ih =>
    obtain ⟨hi, hrest⟩ := List.forall_mem_cons.1 hcmds
    obtain ⟨u, hu⟩ := exec_answers s i
    rw [execAll_cons_of_next s hu] at ht
    have first := exec_takesIn hc hi hu
    exact first.trans (ih (first.configured hc) hrest ht)

/-- Settles O46: the fold over a concatenation, and by it the fold over what a list of commands delivers. -/
theorem chunkingEquivalence : Obligations.ChunkingEquivalence := by
  refine ⟨fun _ => fold_append, ?_⟩
  intro cmds c s t h hc hcmds ht
  have taken := execAll_takesIn hc hcmds ht
  exact ⟨taken.crcData h, _, taken.exec_value h hc, rfl⟩

end Sys2Proof.Machine
end

section
/-! Proofs of the statements of 42_finalize_reset.md: the laws of the finalization function, the effects of RESET, VALUE and SEED,
and what a VALUE answers after other commands. -/

namespace Sys2Proof.Machine

/-! ## The finalization function (R135, R144) -/

section

variable {w : Nat} (ref : Bool) (r x : BitVec w)

theorem fin_true : fin true r x = r ^^^ x := rfl

theorem fin_false : fin false r x = ~~~r ^^^ x := rfl

/-- In either mode the finalization is the XOR with one mask: the constant, or its complement. -/
theorem fin_eq_xor_mask : fin ref r x = r ^^^ (if ref then x else ~~~x) := by
  cases ref
  · rw [fin_false, ← BitVec.not_xor_left, BitVec.not_xor_right]; rfl
  · rfl

theorem fin_fin : fin ref (fin ref r x) x = r := by
  rw [fin_eq_xor_mask, fin_eq_xor_mask, BitVec.xor_assoc, BitVec.xor_self, BitVec.xor_zero]

end

/-- Settles O47: the complement is the XOR with all ones. -/
theorem finalizationFunction : Obligations.FinalizationFunction := by
  intro w r x
  rw [fin_true, fin_false, BitVec.xor_allOnes]
  exact ⟨rfl, rfl⟩

/-- Settles O48: an XOR with a fixed mask is its own inverse and passes a difference on. -/
theorem finalizationLaws : Obligations.FinalizationLaws := by
  refine ⟨?_, ?_, ?_, ?_⟩
  · intro w ref x
    have involutive : Function.Involutive fun r => fin ref r x := fun r => fin_fin ref r x
    exact ⟨involutive.bijective, involutive⟩
  · intro w r x
    rw [fin_eq_xor_mask, fin_true, BitVec.xor_allOnes]
    rfl
  · intro w ref r d x
    rw [fin_eq_xor_mask, fin_eq_xor_mask, BitVec.xor_assoc, BitVec.xor_comm d, BitVec.xor_assoc]
  · intro cfg ref r x
    rw [toNat_zext64 _ cfg.w_le]
    exact BitVec.isLt _

/-! ## RESET, VALUE and SEED (R137, R139, R141) -/

/-- A word of format C, with a context and nothing else. -/
theorem execWord_formatC_errOperand {s : State} {op ctx sel : BitVec 8} {arg : Data} (hm : (op, Format.c) ∈ opcodeMap)
    (h : s.cfg.nctx ≤ ctx.toNat ∨ sel ≠ 0 ∨ arg ≠ 0) :
    execWord (packWord ⟨op, ctx, sel, arg⟩) s = .next (respond s .errOperand 0) :=
  execWord_errOperand_of_context hm rfl (h.imp_right (.imp_right (mt fun harg => BitVec.eq_of_toNat_eq harg)))

/-- Settles O33: the four ways RESET and its word are answered. -/
theorem resetEffect : Obligations.ResetEffect := by
  refine ⟨fun s c => exec_reset_of_configured, fun s ctx => execWord_encode (.reset ctx) s,
    fun s ctx sel arg => execWord_formatC_errOperand (by decide), ?_⟩
  intro s c h hc
  exact exec_of_not_configured (decide_eq_true h) rfl hc

/-- Settles O34: the four ways VALUE and its word are answered. -/
theorem valueEffect : Obligations.ValueEffect := by
  refine ⟨?_, fun s ctx => execWord_encode (.value ctx) s,
    fun s ctx sel arg => execWord_formatC_errOperand (by decide), ?_⟩
  · intro s c h hc
    rw [BitVec.ofNat_toNat]
    exact exec_value_of_configured h hc
  · intro s c h hc
    exact exec_of_not_configured (decide_eq_true h) rfl hc

theorem exec_seed_of_configured {s : State} {c : BitVec 8} {imm : Data} (h : c.toNat < s.cfg.nctx)
    (himm : imm.toNat < 2 ^ s.cfg.w) (hc : s.configured = true) : exec (.seed c imm) s =
      .next (respond (writeCrc s ⟨c.toNat, h⟩ (BitVec.ofNat s.cfg.w imm.toNat)) .ok 0) := by
  rw [exec, execSeed, withContext_of_lt _ h, withOperand_of_fits _ himm, whenConfigured_of_true _ hc, complete_eq_next]

/-- Settles O36: the four ways SEED and its word are answered. -/
theorem seedEffect : Obligations.SeedEffect := by
  refine ⟨fun s c imm => exec_seed_of_configured, fun s ctx arg => execWord_encode (.seed ctx arg) s, ?_, ?_⟩
  · intro s ctx sel arg h
    exact execWord_errOperand_of_context (fmt := .ca) (by decide) rfl (h.imp_right (.imp_right Nat.not_lt.2))
  · intro s c imm h himm hc
    exact exec_of_not_configured (Bool.and_eq_true_iff.2 ⟨decide_eq_true h, decide_eq_true himm⟩) rfl hc

/-! ## Copying a running state (R140) -/

/-- SEED of a zero-extended value writes that value: every W-bit value is legal. -/
theorem exec_seed_zext64 {s : State} {c : BitVec 8} (h : c.toNat < s.cfg.nctx) (hc : s.configured = true)
    (v : BitVec s.cfg.w) : exec (.seed c (zext64 v)) s = .next (respond (writeCrc s ⟨c.toNat, h⟩ v) .ok 0) := by
  have hv : (zext64 v).toNat = v.toNat := toNat_zext64 v s.cfg.w_le
  rw [exec_seed_of_configured h (hv ▸ v.isLt) hc, hv, BitVec.ofNat_toNat, BitVec.setWidth_eq]

/-- Settles O50: the host's transform is the finalization itself, which is its own inverse. -/
theorem copyRunningState : Obligations.CopyRunningState := by
  intro s a b ha hb v hc hv
  have answer : zext64 (fin s.aRef (readCrc s ⟨a.toNat, ha⟩) s.aXor) = zext64 v := by
    simpa [respond] using (exec_value_of_configured ha hc).symm.trans hv
  obtain rfl := (zext64_inj s.cfg.w_le).1 answer
  have undone : ∀ u : BitVec s.cfg.w, (if s.aRef then u ^^^ s.aXor else ~~~(u ^^^ s.aXor)) = fin s.aRef u s.aXor := by
    intro u
    rw [fin, BitVec.not_xor_left]
  rw [undone, fin_fin]
  exact exec_seed_zext64 hb hc _

/-! ## RESET twice, and the value of the empty message (R142, R143) -/

/-- A command refused once is refused again: an error changes nothing but the responses, which no command reads. -/
theorem exec_respond_of_refused {i : Instr} {s : State} {e : Status} (h : exec i s = .next (respond s e 0)) :
    exec i (respond s e 0) = .next (respond (respond s e 0) e 0) := by
  obtain ⟨t, r, ht, hr, again⟩ := exec_appendsOne s i
  cases h.symm.trans ht
  cases eq_of_respond_responses hr
  exact again _

/-- RESET of a register that holds the initializer writes what is there. -/
theorem exec_reset_of_restored {s : State} {c : BitVec 8} (h : c.toNat < s.cfg.nctx) (hc : s.configured = true)
    (hr : readCrc s ⟨c.toNat, h⟩ = s.aInit) : exec (.reset c) s = .next (respond s .ok 0) := by
  rw [exec_reset_of_configured h hc, ← hr, writeCrc_readCrc]

theorem exec_reset_twice {s t : State} {c : BitVec 8} (ht : exec (.reset c) s = .next t) :
    ∃ st, exec (.reset c) t = .next (respond t st 0) := by
  obtain ⟨e, -, hs⟩ | ⟨h, hc, hs⟩ := execReset_cases s c
  · cases ht.symm.trans hs
    exact ⟨e, exec_respond_of_refused hs⟩
  · cases ht.symm.trans hs
    exact ⟨.ok, exec_reset_of_restored (by exact h) (by exact hc) (readCrc_writeCrc_same s _ _)⟩

/-- Settles O49: RESET and BUILD both leave the initializer in the register. -/
theorem resetAndEmptyMessage : Obligations.ResetAndEmptyMessage := by
  refine ⟨?_, ?_, ?_⟩
  · intro s t u c ht hu
    obtain ⟨st, ht'⟩ := exec_reset_twice ht
    cases hu.symm.trans ht'
    exact ⟨_, rfl⟩
  · intro s c h hc
    obtain ⟨t, ht, hr⟩ := execAll_hash h hc []
    exact ⟨t, ht, by simpa using hr⟩
  · intro s c h haccepted
    have value := exec_value_of_configured (s := respond (installEngine s) .ok 0) (c := c) h rfl
    rw [execAll_cons_of_next s (exec_build_of_accepted haccepted), execAll_cons_of_next _ value]
    exact ⟨_, rfl, by simp [readCrc]⟩

/-! ## VALUE is a pure read (R138) -/

/-- A command that leaves the register of `c` takes nothing in: it delivers no byte, or its error changes nothing. -/
theorem LeavesRegister.takesIn {c : BitVec 8} {s t : State} {i : Instr} (h : LeavesRegister c s i) (hc : s.configured = true)
    (ht : exec i s = .next t) : TakesIn c [] s t := by
  obtain ⟨hi, hd⟩ | ⟨e, -, he⟩ := h
  · exact hd ▸ exec_takesIn hc hi ht
  · cases ht.symm.trans he
    exact .of_crcData ((KeepsEngine.refl s).respond e 0) (crcData_of_lt s c.toNat)

theorem NoWriteTo.takesIn {c : BitVec 8} {cmds : List Instr} {s t : State} (h : NoWriteTo c cmds s) (hc : s.configured = true)
    (ht : execAll cmds s = .next t) : TakesIn c [] s t := by
  induction cmds generalizing s with
  | nil => cases ht; exact .refl c _
  | cons i rest ih =>
    obtain ⟨hi, hrest⟩ := h
    obtain ⟨u, hu⟩ := exec_answers s i
    rw [execAll_cons_of_next s hu] at ht
    have first := hi.takesIn hc hu
    exact first.trans (ih (hrest u hu) (first.configured hc) ht)

/-- A list of commands does and answers the same whatever responses were given before. -/
theorem execAll_withResponses {cmds : List Instr} {s t : State} (h : execAll cmds s = .next t) :
    ∃ rs, t.responses = s.responses ++ rs ∧
      ∀ R, execAll cmds { s with responses := R } = .next { t with responses := R ++ rs } := by
  induction cmds generalizing s with
  | nil => cases h; exact ⟨[], by simp, fun R => by simp⟩
  | cons i rest ih =>
    obtain ⟨u, r, hu, hr, first⟩ := exec_appendsOne s i
    rw [execAll_cons_of_next s hu] at h
    obtain ⟨rs, hrs, later⟩ := ih h
    refine ⟨r :: rs, by simp [hrs, hr], fun R => ?_⟩
    rw [execAll_cons_of_next _ (first R), List.append_cons R r rs]
    exact later _

theorem exec_value_responds (s : State) (c : BitVec 8) : ∃ st d, exec (.value c) s = .next (respond s st d) := by
  obtain ⟨e, -, h⟩ | ⟨_, -, h⟩ := execValue_cases s c <;> exact ⟨_, _, h⟩

/-- Settles O35: nothing is taken in between the two reads, and no command reads the response of the first. -/
theorem valueIsPureRead : Obligations.ValueIsPureRead := by
  refine ⟨?_, ?_⟩
  · intro s c h hc
    refine ⟨_, exec_value_of_configured h hc, fun between t hbetween ht => ?_⟩
    exact (hbetween.takesIn hc ht).exec_value (by exact h) (by exact hc)
  · intro s t c after ht
    obtain ⟨st, d, hvalue⟩ := exec_value_responds s c
    obtain ⟨rs, hrs, later⟩ := execAll_withResponses ht
    refine ⟨⟨st, d⟩, rs, hrs, ?_⟩
    rw [execAll_cons_of_next s hvalue, List.append_cons]
    exact later _

end Sys2Proof.Machine
end

section
/-! Proofs of the statements of 43_table_clone_status.md: what TABLE and STATUS answer, and the independence of the contexts. -/

namespace Sys2Proof.Machine

/-! ## TABLE (R150, R152) -/

theorem exec_table_of_configured {s : State} (hc : s.configured = true) (i : BitVec 8) :
    exec (.table i) s = .next (respond s .ok (zext64 (readEntry s.table i))) :=
  whenConfigured_of_true _ hc

/-- Under the invariant TABLE answers what the table generator gives for the active polynomial and mode (R28). -/
theorem exec_table_of_inv {s : State} (hs : s.Inv) (hc : s.configured = true) (i : BitVec 8) :
    exec (.table i) s = .next (respond s .ok (zext64 (tabEntry s.aRef s.aPoly i))) := by
  obtain ⟨generated, -⟩ := hs hc
  rw [exec_table_of_configured hc, generated i, tabEntry]

theorem execWord_formatX_errOperand {s : State} {op ctx sel : BitVec 8} {arg : Data} (hm : (op, Format.x) ∈ opcodeMap)
    (h : ctx ≠ 0 ∨ sel ≠ 0 ∨ 256 ≤ arg.toNat) :
    execWord (packWord ⟨op, ctx, sel, arg⟩) s = .next (respond s .errOperand 0) :=
  execWord_errOperand_of_no_context hm rfl (h.imp_right (.imp_right Nat.not_lt.2))

/-- Settles O37: the entry read, the invariant for what it holds, and the ways TABLE and its word are refused. -/
theorem tableEffect : Obligations.TableEffect := by
  refine ⟨?_, fun s i hs hc => exec_table_of_inv hs hc i, ?_, ?_,
    fun s ctx sel arg => execWord_formatX_errOperand (by decide), ?_⟩
  · intro s i hc
    rw [BitVec.ofNat_toNat]
    exact exec_table_of_configured hc i
  · intro s hs hc
    have answer := exec_table_of_inv hs hc 0
    rwa [tabEntry_index_zero, zext64_zero] at answer
  · intro s i
    rw [BitVec.ofNat_toNat]
    exact execWord_encode (.table i) s
  · intro s i hc
    exact exec_of_not_configured rfl rfl hc

/-! ## STATUS (R32, R153) -/

theorem toNat_wcode (cfg : Config) : (wcode cfg).toNat = if cfg.w = 16 then 0 else if cfg.w = 32 then 1 else 2 := by
  rcases cfg with ⟨d, _, _, _, _⟩
  cases d <;> rfl

/-- The fields of the status word as digits; NCTX - 1 fits its eight bits (R6). -/
theorem toNat_statusWord (s : State) : (statusWord s).toNat =
    s.configured.toNat + 2 * (refBit s).toNat + 4 * (wcode s.cfg).toNat + 256 * (s.cfg.nctx - 1) := by
  have fits : s.cfg.nctx - 1 < 2 ^ 8 := by
    have := s.cfg.nctx_le
    omega
  simp only [statusWord, toNat_append_eq_add, BitVec.toNat_ofBool, BitVec.ofNat_eq_ofNat, BitVec.toNat_ofNat,
    Nat.mod_eq_of_lt fits]
  omega

theorem statusWord_eq_ofNat (s : State) : statusWord s = BitVec.ofNat 64
    ((if s.configured then 1 else 0) + (if s.configured ∧ s.aRef then 2 else 0) +
      4 * (if s.cfg.w = 16 then 0 else if s.cfg.w = 32 then 1 else 2) + 256 * (s.cfg.nctx - 1)) := by
  have flags : s.configured.toNat + 2 * (refBit s).toNat =
      (if s.configured then 1 else 0) + if s.configured ∧ s.aRef then 2 else 0 := by
    unfold refBit
    cases s.configured <;> cases s.aRef <;> rfl
  rw [← flags, ← toNat_wcode, ← toNat_statusWord, BitVec.ofNat_toNat, BitVec.setWidth_eq]

/-- Settles O38: STATUS has no check of its own, and its word none but that of format N. -/
theorem statusEffect : Obligations.StatusEffect := by
  refine ⟨?_, execWord_encode .status, fun s ctx sel arg => execWord_formatN_errOperand (by decide)⟩
  intro s
  rw [← statusWord_eq_ofNat]
  rfl

/-! ## Independence of the contexts (R157) -/

theorem KeepsEngine.trans {s t u : State} (hst : KeepsEngine s t) (htu : KeepsEngine t u) : KeepsEngine s u := by
  obtain ⟨_, _, _, _, _, _, _, rfl⟩ := hst
  obtain ⟨p, i, x, a, b, C, R, rfl⟩ := htu
  exact ⟨p, i, x, a, b, C, R, rfl⟩

/-- Commands on one context keep the engine and every other context's register, whether or not there is an engine. -/
theorem execAll_keeps_other_context {cmds : List Instr} {a : BitVec 8} {d : Nat} {s t : State}
    (hcmds : ∀ i ∈ cmds, addressed i = some a) (hd : a.toNat ≠ d) (ht : execAll cmds s = .next t) :
    KeepsEngine s t ∧ crcData t d = crcData s d := by
  induction cmds generalizing s with
  | nil => cases ht; exact ⟨.refl _, rfl⟩
  | cons i rest ih =>
    obtain ⟨hi, hrest⟩ := List.forall_mem_cons.1 hcmds
    obtain ⟨u, hu⟩ := exec_answers s i
    rw [execAll_cons_of_next s hu] at ht
    obtain ⟨engine, register⟩ := ih hrest ht
    have no_build : ¬ (i = .build ∧ stagedRefused s = false) := by
      rintro ⟨rfl, -⟩
      cases hi
    have other : ∀ c, addressed i = some c → c.toNat ≠ d := by
      intro c hc
      cases hi.symm.trans hc
      exact hd
    exact ⟨(exec_keepsEngine hu no_build).trans engine, register.trans (exec_keeps_crcData hu no_build other)⟩

/-- `u` and `u'` are `s` and `t`, each with the same response appended and nothing else done. -/
def SameResponse (s t u u' : State) : Prop := ∃ st d, u = respond s st d ∧ u' = respond t st d

/-- VALUE reads the engine and the register of its context only. -/
theorem exec_value_same_response {s t : State} {c : BitVec 8} (hk : KeepsEngine s t)
    (hcrc : crcData t c.toNat = crcData s c.toNat) :
    Paired (SameResponse s t) (exec (.value c) s) (exec (.value c) t) := by
  obtain ⟨p, i, x, a, b, C, R, rfl⟩ := hk
  simp only [exec, execValue]
  refine .inContext rfl rfl (fun e => ⟨e, 0, rfl, rfl⟩) fun h h' => .of_rel ⟨.ok, _, rfl, ?_⟩
  have same : some (zext64 C[c.toNat]) = some (zext64 s.crc[c.toNat]) :=
    (crcData_of_lt _ c.toNat h').symm.trans (hcrc.trans (crcData_of_lt s c.toNat h))
  have register : C[c.toNat] = s.crc[c.toNat] := (zext64_inj s.cfg.w_le).1 (Option.some.inj same)
  simp only [readCrc, register]

/-- Settles O21: commands on `a` keep all that VALUE on `b` reads. -/
theorem cloneIndependence : Obligations.CloneIndependence := by
  intro cmds a b s t hcmds hba ht
  have hab : a.toNat ≠ b.toNat := fun e => hba (BitVec.eq_of_toNat_eq e.symm)
  obtain ⟨engine, register⟩ := execAll_keeps_other_context hcmds hab ht
  obtain ⟨_, _, hs', ht', st, d, rfl, rfl⟩ := exec_value_same_response engine register
  exact ⟨register, ⟨st, d⟩, _, _, hs', rfl, ht', rfl⟩

end Sys2Proof.Machine
end

section
/-! Proofs of the statements of 44_catalog.md: what PRESET of a catalogue row installs, and the values the source states. -/

namespace Sys2Proof.Machine

/-! ## The rows of the catalogue (R161, R184) -/

/-- The row can be built on every instance of its width: its operands are values of that width, and a 16-bit row is the one
configuration that the closed form implements (R183). -/
def Preset.Buildable (p : Preset) : Prop :=
  p.sPoly.toNat < 2 ^ p.width ∧ p.sInit.toNat < 2 ^ p.width ∧ p.sXor.toNat < 2 ^ p.width ∧
    (p.width = 16 → p.ref = true ∧ p.sPoly.toNat = 0x1021)

theorem toNat_zext64_lt {w : Nat} (v : BitVec w) (h : w ≤ 64) : (zext64 v).toNat < 2 ^ w :=
  (toNat_zext64 v h).trans_lt v.isLt

/-- The parameters of the instance are 16-bit values by type (R8). -/
theorem ccitt16Preset_buildable (init xorout : BitVec 16) : (ccitt16Preset init xorout).Buildable :=
  ⟨show 0x1021 < 2 ^ 16 by decide, toNat_zext64_lt init (by decide), toNat_zext64_lt xorout (by decide), fun _ => ⟨rfl, rfl⟩⟩

theorem fixedRows_buildable : ∀ p ∈ catalog32 ++ catalog64, p.Buildable := by
  unfold Preset.Buildable
  decide

theorem buildable_of_mem_catalog {cfg : Config} {p : Preset} (hp : p ∈ catalog cfg) : p.Buildable := by
  obtain h | h := List.mem_append.1 hp
  · exact fixedRows_buildable p h
  · exact List.mem_singleton.1 h ▸ ccitt16Preset_buildable _ _

/-- No two rows have one name, whatever the parameters of the CCITT16 row. -/
theorem catalog_names_nodup (cfg : Config) : ((catalog cfg).map Preset.name).Nodup := by
  have names : (catalog cfg).map Preset.name = (catalog32 ++ catalog64).map Preset.name ++ ["CCITT16"] := rfl
  rw [names]
  decide

/-- The assembler finds a row under its name. -/
theorem find?_name_of_mem_catalog {cfg : Config} {p : Preset} (hp : p ∈ catalog cfg) :
    (catalog cfg).find? (fun q => q.name == p.name) = some p := by
  have found : ((catalog cfg).find? fun q => q.name == p.name).isSome :=
    List.find?_isSome.2 ⟨p, hp, beq_self_eq_true _⟩
  obtain ⟨q, hq⟩ := Option.isSome_iff_exists.1 found
  have same_name : q.name = p.name := by simpa using List.find?_some hq
  rw [hq, List.inj_on_of_nodup_map (catalog_names_nodup cfg) (List.mem_of_find?_eq_some hq) hp same_name]

theorem expand_preset_of_mem_catalog {cfg : Config} {p : Preset} (hp : p ∈ catalog cfg) :
    expand cfg (.preset p.name) = if p.width = cfg.w then some (presetCommands p) else none := by
  rw [expand, find?_name_of_mem_catalog hp]

/-! ## The five commands of PRESET (R83, R164) -/

theorem toNat_ofNat_of_fits {w : Nat} {imm : Data} (h : imm.toNat < 2 ^ w) :
    (BitVec.ofNat w imm.toNat).toNat = imm.toNat := by
  rw [BitVec.toNat_ofNat, Nat.mod_eq_of_lt h]

/-- The state in which the four staging commands of the row have been answered. -/
def stagePreset (s : State) (p : Preset) : State :=
  { s with
      sPoly := BitVec.ofNat s.cfg.w p.sPoly.toNat, sInit := BitVec.ofNat s.cfg.w p.sInit.toNat
      sXor := BitVec.ofNat s.cfg.w p.sXor.toNat, sRefin := p.ref, sRefout := p.ref
      responses := s.responses ++ List.replicate 4 ⟨.ok, 0⟩ }

/-- The state that PRESET leaves: the engine built from the staged row. -/
def installPreset (s : State) (p : Preset) : State := respond (installEngine (stagePreset s p)) .ok 0

section

variable {s : State} {p : Preset} (hp : p.Buildable) (hw : p.width = s.cfg.w)

include hp hw

theorem exec_build_stagePreset : exec .build (stagePreset s p) = .next (installPreset s p) := by
  obtain ⟨hpoly, -, -, hclosed⟩ := hp
  refine exec_build_of_equal_bits rfl fun hc => ?_
  obtain ⟨href, h1021⟩ := hclosed (hw.trans (s.cfg.w_of_closedForm hc))
  rw [hw] at hpoly
  exact ⟨href, (toNat_ofNat_of_fits hpoly).trans h1021⟩

/-- Each operand fits, so each command completes and BUILD finds the row staged. -/
theorem execAll_presetCommands : execAll (presetCommands p) s = .next (installPreset s p) := by
  have staged : execAll [.setpoly p.sPoly, .setinit p.sInit, .setxor p.sXor, .setref p.ref p.ref] s =
      .next (stagePreset s p) := by
    obtain ⟨hpoly, hinit, hxor, -⟩ := hp
    rw [hw] at hpoly hinit hxor
    rw [execAll_cons_of_next _ (setpolyEffect.1 s _ hpoly), execAll_cons_of_next _ (setinitEffect.1 _ _ (by exact hinit)),
      execAll_cons_of_next _ (setxorEffect.1 _ _ (by exact hxor)), execAll_cons_of_next _ (setrefEffect.1 _ _ _)]
    simp [stagePreset, List.replicate_succ]
  exact (execAll_append s staged).trans (execAll_cons_of_next _ (exec_build_stagePreset hp hw))

end

/-! ## What PRESET installs (R162, R164) -/

/-- A W-bit operand is read back as the number that was written. -/
theorem zext64_ofNat_of_fits {w : Nat} {imm : Data} (hw : w ≤ 64) (h : imm.toNat < 2 ^ w) :
    zext64 (BitVec.ofNat w imm.toNat) = imm := by
  apply BitVec.eq_of_toNat_eq
  rw [toNat_zext64 _ hw, toNat_ofNat_of_fits h]

theorem installPreset_parameters {s : State} {p : Preset} (hp : p.Buildable) (hw : p.width = s.cfg.w) :
    zext64 (installPreset s p).aPoly = p.sPoly ∧ zext64 (installPreset s p).aInit = p.sInit ∧
      zext64 (installPreset s p).aXor = p.sXor := by
  obtain ⟨hpoly, hinit, hxor, -⟩ := hp
  rw [hw] at hpoly hinit hxor
  exact ⟨zext64_ofNat_of_fits s.cfg.w_le hpoly, zext64_ofNat_of_fits s.cfg.w_le hinit, zext64_ofNat_of_fits s.cfg.w_le hxor⟩

theorem installPreset_responses (s : State) (p : Preset) :
    (installPreset s p).responses = s.responses ++ List.replicate 5 ⟨.ok, 0⟩ := by
  simp [installPreset, stagePreset, List.replicate_succ]

theorem setWidth_onesOperand {w : Nat} (hw : w ≤ 64) : (onesOperand w).setWidth w = BitVec.allOnes w := by
  rw [onesOperand, BitVec.setWidth_ofNat_of_le hw, ← BitVec.toNat_allOnes, BitVec.ofNat_toNat, BitVec.setWidth_eq]

/-- The complement programmed for a non-reflected row undoes the complement that finalization makes (R162). -/
theorem fin_programmedXor {w : Nat} (ref : Bool) (xorout : Data) (r : BitVec w) (hw : w ≤ 64) :
    fin ref r ((programmedXor w ref xorout).setWidth w) = r ^^^ xorout.setWidth w := by
  rw [fin_eq_xor_mask]
  cases ref
  · simp [programmedXor, setWidth_onesOperand hw]
  · rfl

/-- Settles O59: the rows fit their width and BUILD accepts them, their names are different, and the two complements cancel. -/
theorem presetInstalls : Obligations.PresetInstalls := by
  refine ⟨?_, fun _ _ => expand_preset_of_mem_catalog, fun _ => fin_programmedXor⟩
  intro s p hp hw
  have hbuild := buildable_of_mem_catalog hp
  obtain ⟨hpoly, hinit, hxor⟩ := installPreset_parameters hbuild hw
  refine ⟨_, execAll_presetCommands hbuild hw, installPreset_responses s p, rfl, hpoly, hinit, hxor, rfl, fun c hc => ?_⟩
  exact (crcData_installEngine (s := stagePreset s p) hc).trans (congrArg some hinit)

/-! ## The values the source states (R163) -/

theorem statedValue_preset_mem_catalog {v : StatedValue} (hv : v ∈ statedValues) (cfg : Config) : v.preset ∈ catalog cfg := by
  have fixed : ∀ v ∈ statedValues, v.preset ∈ catalog32 ++ catalog64 := by decide
  exact List.mem_append_left _ (fixed v hv)

/-- The value of a message under a row, on an engine of width `w` built from it (R106, R107, R123, R135). -/
def Preset.messageValue (p : Preset) (w : Nat) (bytes : List Byte) : BitVec w :=
  fin p.ref (fold p.ref (BitVec.ofNat w p.sInit.toNat) bytes (buildTable p.ref (BitVec.ofNat w p.sPoly.toNat)))
    (BitVec.ofNat w p.sXor.toNat)

/-- The engine that PRESET installs holds what the value of the row is computed from. -/
theorem zext64_fin_fold_installPreset (s : State) (p : Preset) (bytes : List Byte) :
    zext64 (fin (installPreset s p).aRef
      (fold (installPreset s p).aRef (installPreset s p).aInit bytes (installPreset s p).table) (installPreset s p).aXor) =
        zext64 (p.messageValue s.cfg.w bytes) := rfl

/-- The eleven values, computed from their rows. -/
theorem messageValue_statedValues :
    ∀ v ∈ statedValues, zext64 (v.preset.messageValue v.preset.width v.message) = v.value := by
  decide +kernel

/-- Settles O58: PRESET builds the engine of the row, and HASH on it answers the value computed from the row. -/
theorem statedValuesReproduced : Obligations.StatedValuesReproduced := by
  intro s c v hv hw hc
  have preset := execAll_presetCommands (buildable_of_mem_catalog (statedValue_preset_mem_catalog hv s.cfg)) hw
  obtain ⟨cmds, t, hcmds, ht, hr⟩ := hashComputes.1 (installPreset s v.preset) c v.message hc rfl
  have value : zext64 (v.preset.messageValue s.cfg.w v.message) = v.value := hw ▸ messageValue_statedValues v hv
  refine ⟨cmds, t, List.replicate 5 ⟨.ok, 0⟩ ++ List.replicate (v.message.length + 1) ⟨.ok, 0⟩, hcmds,
    (execAll_append s preset).trans ht, ?_⟩
  rw [hr, zext64_fin_fold_installPreset, value, installPreset_responses, List.append_assoc s.responses]

end Sys2Proof.Machine
end

section
/-! Proofs of the statements of 45_reflect.md: the bits and the number of a reversed value, the laws of bit reversal, and the
effect of REFLECT. -/

namespace Sys2Proof.Machine

/-! ## Bits as weights, and mirrored bit positions -/

/-- The low `k` bits of a number are its value modulo `2^k`. -/
theorem sum_testBit_weights (n k : Nat) : ((List.range k).map fun i => (n.testBit i).toNat * 2 ^ i).sum = n % 2 ^ k := by
  induction k with
  | zero => simp [Nat.mod_one]
  | succ k ih =>
    rw [List.range_succ, List.map_append, List.sum_append, ih, List.map_singleton, List.sum_singleton, Nat.toNat_testBit,
      Nat.pow_succ, Nat.mod_mul, Nat.mul_comm]

theorem toNat_eq_sum_bits {N : Nat} (x : BitVec N) :
    x.toNat = ((List.range N).map fun i => (x.getLsbD i).toNat * 2 ^ i).sum :=
  (Nat.mod_eq_of_lt x.isLt).symm.trans (sum_testBit_weights x.toNat N).symm

/-- Counting the bit positions from the other end meets each of them once. -/
theorem mirrored_range_perm (N : Nat) : ((List.range N).map fun i => N - 1 - i).Perm (List.range N) := by
  have mirrored : (List.range N).reverse = (List.range N).map fun i => N - 1 - i := by
    rw [List.range_eq_range', List.reverse_range', ← List.range_eq_range', Nat.zero_add]
  exact mirrored ▸ List.reverse_perm _

/-- Bit `N-1-i` of the reversed value is bit `i`: R170 read from the other end. -/
theorem getLsbD_reflect_mirrored {N : Nat} (x : BitVec N) (i : Nat) (hi : i < N) :
    (reflect x).getLsbD (N - 1 - i) = x.getLsbD i := by
  rw [← getLsbD_reflect _ i hi, reflect_reflect]

theorem toNat_reflect {N : Nat} (x : BitVec N) :
    (reflect x).toNat = ((List.range N).map fun i => (x.getLsbD i).toNat * 2 ^ (N - 1 - i)).sum := by
  have other_end := ((mirrored_range_perm N).map fun j => ((reflect x).getLsbD j).toNat * 2 ^ j).sum_eq
  rw [List.map_map] at other_end
  rw [toNat_eq_sum_bits, ← other_end]
  refine congrArg List.sum (List.map_congr_left fun i hi => ?_)
  rw [Function.comp_apply, getLsbD_reflect_mirrored x i (List.mem_range.1 hi)]

/-- Settles O51: the bits one by one, and the sum of their weights taken from the other end. -/
theorem reflectBits : Obligations.ReflectBits :=
  ⟨fun _ => getLsbD_reflect, fun _ => toNat_reflect⟩

/-! ## The laws of bit reversal (R171) -/

section

variable {N : Nat}

theorem reflect_allOnes : reflect (BitVec.allOnes N) = BitVec.allOnes N := by
  refine eq_of_bits fun j hj => ?_
  have inside : N - 1 - j < N := by omega
  rw [getLsbD_reflect _ j hj, BitVec.getLsbD_allOnes, BitVec.getLsbD_allOnes, decide_eq_true hj, decide_eq_true inside]

theorem reflect_bijective : Function.Bijective (reflect : BitVec N → BitVec N) :=
  Function.Involutive.bijective reflect_reflect

theorem reflect_and (x y : BitVec N) : reflect (x &&& y) = reflect x &&& reflect y :=
  eq_of_bits fun j hj => by simp only [BitVec.getLsbD_and, getLsbD_reflect _ j hj]

theorem reflect_or (x y : BitVec N) : reflect (x ||| y) = reflect x ||| reflect y :=
  eq_of_bits fun j hj => by simp only [BitVec.getLsbD_or, getLsbD_reflect _ j hj]

theorem countP_getLsbD_reflect (x : BitVec N) :
    ((List.range N).countP fun i => (reflect x).getLsbD i) = (List.range N).countP fun i => x.getLsbD i := by
  calc (List.range N).countP (fun i => (reflect x).getLsbD i)
      = (List.range N).countP ((fun j => x.getLsbD j) ∘ fun i => N - 1 - i) :=
        List.countP_congr fun i hi => by rw [getLsbD_reflect x i (List.mem_range.1 hi), Function.comp_apply]
    _ = ((List.range N).map fun i => N - 1 - i).countP fun j => x.getLsbD j := List.countP_map.symm
    _ = (List.range N).countP fun i => x.getLsbD i := (mirrored_range_perm N).countP_eq _

/-- A shift by `k` is `k` shifts by one, and each of them is turned round. -/
theorem reflect_shiftLeft (x : BitVec N) (k : Nat) : reflect (x <<< k) = reflect x >>> k := by
  induction k with
  | zero => rw [BitVec.shiftLeft_zero, BitVec.ushiftRight_zero]
  | succ k ih => rw [BitVec.shiftLeft_add, reflect_shiftLeft_one, ih, BitVec.shiftRight_add]

/-- The fixed points of the reversal are the bit palindromes. -/
theorem reflect_eq_self_iff (x : BitVec N) : reflect x = x ↔ ∀ i < N, x.getLsbD i = x.getLsbD (N - 1 - i) := by
  constructor
  · intro fixed i hi
    calc x.getLsbD i = (reflect x).getLsbD i := by rw [fixed]
      _ = x.getLsbD (N - 1 - i) := getLsbD_reflect x i hi
  · intro palindrome
    exact eq_of_bits fun j hj => (getLsbD_reflect x j hj).trans (palindrome j hj).symm

end

/-- Settles O52: bit by bit, but for the shifts, which go by steps of one, and the number of ones, which is counted from the other
end. -/
theorem reflectLaws : Obligations.ReflectLaws :=
  ⟨fun _ => reflect_reflect,
   fun _ => ⟨reflect_zero, reflect_allOnes, reflect_bijective⟩,
   fun _ a b => ⟨reflect_xor a b, reflect_and a b, reflect_or a b⟩,
   fun _ => countP_getLsbD_reflect,
   fun _ => reflect_shiftLeft,
   fun _ => reflect_eq_self_iff⟩

/-! ## REFLECT (R172) -/

theorem exec_reflect_of_fits {s : State} {imm : Data} (h : imm.toNat < 2 ^ s.cfg.w) : exec (.reflect imm) s =
    .next (respond s .ok (zext64 (reflect (BitVec.ofNat s.cfg.w imm.toNat)))) := by
  rw [exec, execReflect, withOperand_of_fits _ h, complete_eq_next]

/-- Settles O39: the operand fits, or the word is refused by format A. -/
theorem reflectEffect : Obligations.ReflectEffect := by
  refine ⟨?_, fun s arg => execWord_encode (.reflect arg) s, fun s ctx sel arg => execWord_formatA_errOperand (by decide)⟩
  intro s imm h
  rw [exec_reflect_of_fits h, zext64, ← BitVec.ofNat_toNat 64]
  rfl

end Sys2Proof.Machine
end

section
/-! Proofs of the statements of 46_ccitt16.md: the closed-form update is the table update, what a closed-form instance builds,
and its correspondence with the general instance of its width. -/

namespace Sys2Proof

theorem Config.w_general (c : Config) : c.general.w = c.w := by
  rcases c with ⟨d, _, _, _, _⟩
  cases d <;> rfl

theorem Config.closedForm_general (c : Config) : c.general.closedForm = false := by
  rcases c with ⟨d, _, _, _, _⟩
  cases d <;> rfl

end Sys2Proof

namespace Sys2Proof.Machine

/-! ## The closed form is the table update (R182) -/

/-- What the closed form adds to `r >> 8`, from the byte `d` of R182. -/
def closedTerm (d : Byte) : BitVec 16 := (d ++ (0 : BitVec 8)) ^^^ (d >>> 4).setWidth 16 ^^^ (d.setWidth 16 <<< 3)

/-- `d` in the high byte and the old high byte in the low byte do not overlap, so OR is XOR. -/
theorem append_zero_or_ushiftRight_eight (d : Byte) (r : BitVec 16) :
    (d ++ (0 : BitVec 8)) ||| (r >>> 8) = (r >>> 8) ^^^ (d ++ (0 : BitVec 8)) := by
  refine eq_of_bits fun j hj => ?_
  rw [BitVec.getLsbD_or, BitVec.getLsbD_xor, BitVec.getLsbD_append, BitVec.getLsbD_ushiftRight]
  rcases Nat.lt_or_ge j 8 with h | h
  · simp [h]
  · rw [BitVec.getLsbD_of_ge r (8 + j) (by omega), Bool.or_false, Bool.false_xor]

theorem closedUpdate_eq_xor (r : BitVec 16) (b : Byte) : closedUpdate r b = (r >>> 8) ^^^ closedTerm (closedByte r b) := by
  simp only [closedUpdate, closedTerm, append_zero_or_ushiftRight_eight, BitVec.xor_assoc]

/-- The byte before its nibbles are folded is the index at which the table is read. -/
theorem closedByte_eq_lowByte (r : BitVec 16) (b : Byte) :
    closedByte r b = lowByte (r ^^^ b.setWidth 16) ^^^ (lowByte (r ^^^ b.setWidth 16) <<< 4) := by
  have index : b ^^^ r.extractLsb' 0 8 = lowByte (r ^^^ b.setWidth 16) := by
    refine eq_of_bits fun j hj => ?_
    have hj16 : j < 16 := by omega
    rw [getLsbD_lowByte _ j (by decide), BitVec.getLsbD_xor, BitVec.getLsbD_xor, BitVec.getLsbD_setWidth,
      BitVec.getLsbD_extractLsb', Nat.zero_add, decide_eq_true hj, decide_eq_true hj16, Bool.true_and, Bool.true_and,
      Bool.true_and, Bool.xor_comm]
  rw [closedByte, index]

/-- The closed form writes each of the 256 entries of the reflected table of 0x1021 as terms of the index's nibbles. -/
theorem tabRef_0x1021_eq_closedTerm : ∀ i : Byte, tabRef (0x1021 : BitVec 16) i = closedTerm (i ^^^ (i <<< 4)) := by
  decide

/-- Settles O53: both updates shift the register by a byte, and what they add agrees for each of the 256 indices. -/
theorem closedFormEqualsTable : Obligations.ClosedFormEqualsTable := by
  intro r b
  rw [closedUpdate_eq_xor, closedByte_eq_lowByte, ← tabRef_0x1021_eq_closedTerm, updRef, readEntry_buildTable, tabEntry,
    if_pos rfl]

/-! ## What a closed-form instance builds (R183) -/

theorem zext64_tabRef_0x1021 {w : Nat} (hw : w = 16) (i : Byte) :
    zext64 (tabRef (BitVec.ofNat w 0x1021) i) = zext64 (tabRef (0x1021 : BitVec 16) i) := by
  subst hw
  rfl

/-- Settles O54: BUILD's check, and the invariant for the entries that TABLE answers. -/
theorem closedFormBuild : Obligations.ClosedFormBuild := by
  obtain ⟨-, refused, -⟩ := buildRefusals
  refine ⟨fun s => s.cfg.w_of_closedForm, ?_, refused, ?_, ?_⟩
  · intro s _ hpoly hrin hrout
    exact ⟨_, exec_build_of_equal_bits (hrin.trans hrout.symm) fun _ => ⟨hrin, hpoly⟩, rfl, rfl⟩
  · intro s i hs hclosed hc
    obtain ⟨-, only⟩ := hs hc
    obtain ⟨href, hpoly⟩ := only hclosed
    have entry : zext64 (tabEntry s.aRef s.aPoly i) = zext64 (tabRef (0x1021 : BitVec 16) i) := by
      rw [href, hpoly, tabEntry, if_pos rfl, zext64_tabRef_0x1021 (s.cfg.w_of_closedForm hclosed)]
    rw [exec_table_of_inv hs hc, entry]
    rfl
  · intro s hgeneral href
    exact ⟨_, exec_build_of_equal_bits href fun hclosed => absurd (hgeneral.symm.trans hclosed) Bool.false_ne_true, rfl, rfl⟩

/-! ## Values under another name of their width

The widths of a closed-form instance and of its general one are equal numbers, and every operation on W-bit values commutes with
the change from one to the other. -/

theorem map_setWidth_self {w n : Nat} (xs : Vector (BitVec w) n) : xs.map (BitVec.setWidth w) = xs := by
  rw [funext BitVec.setWidth_eq, Vector.map_id']

section

variable {w w' : Nat} (h : w' = w)

include h

theorem zext64_setWidth (v : BitVec w) : zext64 (v.setWidth w') = zext64 v := by
  subst h
  rw [BitVec.setWidth_eq]

theorem setWidth_setWidth_of_eq (x : Data) : (x.setWidth w).setWidth w' = x.setWidth w' := by
  subst h
  rw [BitVec.setWidth_eq]

theorem reflect_setWidth (v : BitVec w) : reflect (v.setWidth w') = (reflect v).setWidth w' := by
  subst h
  rw [BitVec.setWidth_eq, BitVec.setWidth_eq]

theorem fin_setWidth (ref : Bool) (r x : BitVec w) : fin ref (r.setWidth w') (x.setWidth w') = (fin ref r x).setWidth w' := by
  subst h
  rw [BitVec.setWidth_eq, BitVec.setWidth_eq, BitVec.setWidth_eq]

theorem buildTable_setWidth (ref : Bool) (poly : BitVec w) :
    buildTable ref (poly.setWidth w') = (buildTable ref poly).map (BitVec.setWidth w') := by
  subst h
  rw [BitVec.setWidth_eq, map_setWidth_self]

theorem readEntry_setWidth (T : Table w) (i : Byte) :
    readEntry (T.map (BitVec.setWidth w')) i = (readEntry T i).setWidth w' := by
  subst h
  rw [map_setWidth_self, BitVec.setWidth_eq]

theorem fold_setWidth (ref : Bool) (r : BitVec w) (bs : List Byte) (T : Table w) :
    fold ref (r.setWidth w') bs (T.map (BitVec.setWidth w')) = (fold ref r bs T).setWidth w' := by
  subst h
  rw [BitVec.setWidth_eq, BitVec.setWidth_eq, map_setWidth_self]

end

/-! ## The operations on the general instance (R181) -/

section

variable (s : State)

theorem wcode_general (c : Config) : wcode c.general = wcode c := by
  rcases c with ⟨d, _, _, _, _⟩
  cases d <;> rfl

theorem statusWord_general : statusWord s.general = statusWord s := by
  have code : wcode s.general.cfg = wcode s.cfg := wcode_general s.cfg
  rw [statusWord, code]
  rfl

theorem readCrc_general (c : Fin s.cfg.nctx) : readCrc s.general c = toGeneral s.cfg (readCrc s c) :=
  Vector.getElem_map ..

theorem writeCrc_general (c : Fin s.cfg.nctx) (v : BitVec s.cfg.w) :
    (writeCrc s c v).general = writeCrc s.general c (toGeneral s.cfg v) :=
  congrArg (fun C => ({ s.general with crc := C } : State)) Vector.map_set

theorem installEngine_general : (installEngine s).general = installEngine s.general := by
  have entries : (buildTable s.sRefin s.sPoly).map (toGeneral s.cfg) = buildTable s.sRefin (toGeneral s.cfg s.sPoly) :=
    (buildTable_setWidth s.cfg.w_general _ _).symm
  have registers : (Vector.replicate s.cfg.nctx s.sInit).map (toGeneral s.cfg) =
      Vector.replicate s.cfg.nctx (toGeneral s.cfg s.sInit) := Vector.map_replicate
  exact congrArg₂ (fun T C => ({ installEngine s.general with table := T, crc := C } : State)) entries registers

theorem fold_general (c : Fin s.cfg.nctx) (bs : List Byte) :
    fold s.general.aRef (readCrc s.general c) bs s.general.table = toGeneral s.cfg (fold s.aRef (readCrc s c) bs s.table) := by
  rw [readCrc_general]
  exact fold_setWidth s.cfg.w_general _ _ _ _

theorem zext64_fin_general (c : Fin s.cfg.nctx) : zext64 (fin s.general.aRef (readCrc s.general c) s.general.aXor) =
    zext64 (fin s.aRef (readCrc s c) s.aXor) := by
  rw [readCrc_general, ← zext64_setWidth s.cfg.w_general, ← fin_setWidth s.cfg.w_general]
  rfl

theorem zext64_readEntry_general (i : Byte) : zext64 (readEntry s.general.table i) = zext64 (readEntry s.table i) := by
  rw [← zext64_setWidth s.cfg.w_general, ← readEntry_setWidth s.cfg.w_general]
  rfl

theorem zext64_reflect_general (v : BitVec s.cfg.w) : zext64 (reflect (toGeneral s.cfg v)) = zext64 (reflect v) := by
  rw [toGeneral, reflect_setWidth s.cfg.w_general, zext64_setWidth s.cfg.w_general]

end

/-! ## The outcomes on the general instance (R181) -/

/-- The outcome that corresponds to `o` on the general instance. -/
def generalOutcome : Host.Outcome State Fault Refusal → Host.Outcome State Fault Refusal
  | .next t    => .next t.general
  | .fault r   => .fault r
  | .refused r => .refused r

section

variable (s : State)

theorem complete_general {u : State} {d d' : Data} (hu : u = s.general) (hd : d' = d) :
    complete u d' = generalOutcome (complete s d) := by
  subst hu hd
  rfl

theorem complete_writeCrc_general {c : Fin s.cfg.nctx} {v : BitVec s.cfg.w} {v' : BitVec s.general.cfg.w}
    (hv : v' = toGeneral s.cfg v) : complete (writeCrc s.general c v') 0 = generalOutcome (complete (writeCrc s c v) 0) := by
  rw [hv]
  exact complete_general _ (writeCrc_general s c v).symm rfl

theorem withOperand_general {arg : Data} {k : BitVec s.cfg.w → Host.Outcome State Fault Refusal}
    {k' : BitVec s.general.cfg.w → Host.Outcome State Fault Refusal} (hk : ∀ v, k' (toGeneral s.cfg v) = generalOutcome (k v)) :
    withOperand s.general arg k' = generalOutcome (withOperand s arg k) := by
  have hw : s.general.cfg.w = s.cfg.w := s.cfg.w_general
  rcases Nat.lt_or_ge arg.toNat (2 ^ s.cfg.w) with h | h
  · rw [withOperand_of_lt _ h, withOperand_of_lt _ (by rwa [hw]), ← setWidth_setWidth_of_eq hw]
    exact hk _
  · rw [withOperand_of_le _ h, withOperand_of_le _ (by rwa [hw])]
    rfl

theorem withContext_general {c : BitVec 8} {k : Fin s.cfg.nctx → Host.Outcome State Fault Refusal}
    {k' : Fin s.general.cfg.nctx → Host.Outcome State Fault Refusal} (hk : ∀ x, k' x = generalOutcome (k x)) :
    withContext s.general c k' = generalOutcome (withContext s c k) := by
  rcases Nat.lt_or_ge c.toNat s.cfg.nctx with h | h
  · rw [withContext_of_lt _ h, withContext_of_lt _ (by exact h)]
    exact hk _
  · rw [withContext_of_le _ h, withContext_of_le _ (by exact h)]
    rfl

theorem whenConfigured_general {k k' : Host.Outcome State Fault Refusal} (hk : k' = generalOutcome k) :
    whenConfigured s.general k' = generalOutcome (whenConfigured s k) := by
  cases hc : s.configured
  · rw [whenConfigured_of_false _ hc, whenConfigured_of_false _ (by exact hc)]
    rfl
  · rw [whenConfigured_of_true _ hc, whenConfigured_of_true _ (by exact hc)]
    exact hk

/-- The shape that UPDATE, UPDATEW, RESET and VALUE share: a context, then a built engine. -/
theorem inContext_general {c : BitVec 8} {k : Fin s.cfg.nctx → Host.Outcome State Fault Refusal}
    {k' : Fin s.general.cfg.nctx → Host.Outcome State Fault Refusal} (hk : ∀ x, k' x = generalOutcome (k x)) :
    (withContext s.general c fun x => whenConfigured s.general (k' x)) =
      generalOutcome (withContext s c fun x => whenConfigured s (k x)) :=
  withContext_general s fun x => whenConfigured_general s (hk x)

/-- BUILD of the reflected 0x1021 is accepted on both instances. -/
theorem exec_build_general (hpoly : s.sPoly.toNat = 0x1021) (hrin : s.sRefin = true) (hrout : s.sRefout = true) :
    exec .build s.general = generalOutcome (exec .build s) := by
  have href : s.sRefin = s.sRefout := hrin.trans hrout.symm
  have table_path : s.general.cfg.closedForm = false := s.cfg.closedForm_general
  rw [exec_build_of_equal_bits href fun _ => ⟨hrin, hpoly⟩, exec_build_of_equal_bits (s := s.general) href
    fun hclosed => absurd (table_path.symm.trans hclosed) Bool.false_ne_true, ← installEngine_general]
  rfl

/-- A command does on the general instance what it does on `s`; a BUILD when it stages what the closed form implements. -/
theorem exec_general {i : Instr} (hi : i = .build → s.sPoly.toNat = 0x1021 ∧ s.sRefin = true ∧ s.sRefout = true) :
    exec i s.general = generalOutcome (exec i s) := by
  cases i with
  | status => exact complete_general s rfl (statusWord_general s)
  | setpoly imm =>
    simp only [exec, execSetpoly]
    exact withOperand_general s fun v => rfl
  | setinit imm =>
    simp only [exec, execSetinit]
    exact withOperand_general s fun v => rfl
  | setxor imm =>
    simp only [exec, execSetxor]
    exact withOperand_general s fun v => rfl
  | setref rin rout => rfl
  | build =>
    obtain ⟨hpoly, hrin, hrout⟩ := hi rfl
    exact exec_build_general s hpoly hrin hrout
  | update c b =>
    simp only [exec, execUpdate]
    exact inContext_general s fun x => complete_writeCrc_general s (fold_general s x [b])
  | updatew c o n buf =>
    simp only [exec, execUpdatew]
    refine inContext_general s fun x => ?_
    split
    · exact complete_writeCrc_general s (fold_general s x _)
    · rfl
  | reset c =>
    simp only [exec, execReset]
    exact inContext_general s fun x => complete_writeCrc_general s rfl
  | value c =>
    simp only [exec, execValue]
    exact inContext_general s fun x => complete_general s rfl (zext64_fin_general s x)
  | seed c imm =>
    simp only [exec, execSeed]
    exact withContext_general s fun x => withOperand_general s fun v =>
      whenConfigured_general s (complete_writeCrc_general s rfl)
  | table i =>
    simp only [exec, execTable]
    exact whenConfigured_general s (complete_general s rfl (zext64_readEntry_general s i))
  | reflect imm =>
    simp only [exec, execReflect]
    exact withOperand_general s fun v => complete_general s rfl (zext64_reflect_general s v)

end

/-- The same unspecified contents on the general instance. -/
def PowerOnContents.general {cfg : Config} (u : PowerOnContents cfg) : PowerOnContents cfg.general :=
  { aPoly := toGeneral cfg u.aPoly, aInit := toGeneral cfg u.aInit, aXor := toGeneral cfg u.aXor, aRef := u.aRef,
    table := u.table.map (toGeneral cfg), crc := u.crc.map (toGeneral cfg) }

theorem powerOn_general (cfg : Config) (u : PowerOnContents cfg) :
    (State.powerOn cfg u).general = State.powerOn cfg.general u.general := by
  have zero : toGeneral cfg 0 = 0 := BitVec.setWidth_zero ..
  simp only [State.general, State.powerOn, zero]
  rfl

/-- Settles O55: the outcome on the general instance, command by command, and the contents carried over at power-on. -/
theorem closedFormInterchangeable : Obligations.ClosedFormInterchangeable := by
  refine ⟨fun i s t hi ht => ⟨?_, rfl⟩, fun cfg u => ⟨u.general, powerOn_general cfg u⟩⟩
  rw [exec_general s hi, ht, generalOutcome]

end Sys2Proof.Machine
end

section
/-! Proofs of the statements of 60_exceptions.md: what a status depends on, that an error writes no state, and when `ERR_NOTCONF`
is given. -/

namespace Sys2Proof.Machine

/-! ## What the status depends on (R199) -/

/-- Check 2 reads no other parameter than W and NCTX. -/
theorem fieldsAllowed_congr {c c' : Config} (hw : c.w = c'.w) (hn : c.nctx = c'.nctx) (f : Fields) :
    fieldsAllowed c f = fieldsAllowed c' f := by
  have allows (fmt : Format) : formatAllows c f fmt = formatAllows c' f fmt := by
    cases fmt <;> simp only [formatAllows, hw, hn]
  simp only [fieldsAllowed, allows]

/-- BUILD's check reads the staged flags, and the staged polynomial with the closed form only. -/
theorem stagedRefused_congr {s t : State} (hcf : s.cfg.closedForm = t.cfg.closedForm) (hin : s.sRefin = t.sRefin)
    (hout : s.sRefout = t.sRefout) (hpoly : s.cfg.closedForm = true → s.sPoly.toNat = t.sPoly.toNat) :
    stagedRefused s = stagedRefused t := by
  rw [Bool.eq_iff_iff, stagedRefused_iff, stagedRefused_iff, ← hin, ← hout, ← hcf]
  exact or_congr Iff.rfl (and_congr_right fun hc => by rw [hpoly hc])

/-- Settles O9: each of the checks that decide the status reads the named pieces of state and parameters only. -/
theorem statusIsDetermined : Obligations.StatusIsDetermined := by
  intro cw s t hw hn hcf hconf hin hout hpoly
  have same : expectedStatus s cw = expectedStatus t cw := by
    simp only [expectedStatus, fieldsAllowed_congr hw hn, hconf, stagedRefused_congr hcf hin hout hpoly]
  obtain ⟨s', d, hs, hsr, -⟩ := execWord_answers_expectedStatus s cw
  obtain ⟨t', e, ht, htr, -⟩ := execWord_answers_expectedStatus t cw
  exact ⟨_, s', t', d, e, hs, hsr, ht, same ▸ htr⟩

/-! ## Errors write nothing (R197) -/

/-- The response to a known outcome has the one status that is answered. -/
theorem Answers.of_next {s t : State} {st st' : Status} {d : Data} {o : Host.Outcome State Fault Refusal} (h : Answers s st o)
    (ho : o = .next t) (hr : t.responses = s.responses ++ [⟨st', d⟩]) : st' = st ∧ (st ≠ .ok → t = respond s st 0) := by
  obtain ⟨u, e, hu, hru, herr⟩ := h
  cases ho.symm.trans hu
  have one : (⟨st', d⟩ : Response) = ⟨st, e⟩ := by simpa using hr.symm.trans hru
  exact ⟨congrArg Response.status one, herr⟩

/-- Settles O10: the one response to the word carries the status of the check that failed, and that check wrote nothing. -/
theorem errorsWriteNothing : Obligations.ErrorsWriteNothing := by
  intro cw s t st d h hr hne
  obtain ⟨rfl, herr⟩ := (execWord_answers_expectedStatus s cw).of_next h hr
  exact herr hne

/-! ## CONFIGURED and `ERR_NOTCONF` (R24, R195) -/

theorem KeepsEngine.configured_eq {s t : State} (h : KeepsEngine s t) : t.configured = s.configured := by
  obtain ⟨p, i, x, a, b, C, R, rfl⟩ := h
  rfl

/-- A step builds an engine, by an accepted BUILD, or it leaves CONFIGURED as it was. -/
theorem configured_of_step {s t : State} (h : step s = .next t) :
    (∃ cw rest, s.pending = cw :: rest ∧ decode cw = .instr .build ∧ stagedRefused s = false ∧ t.configured = true) ∨
      t.configured = s.configured := by
  cases hp : s.pending with
  | nil => cases h.symm.trans (step_nil s hp); exact .inr rfl
  | cons cw rest =>
    rw [step_cons s cw rest hp] at h
    obtain ⟨hd, hr, rfl⟩ | ⟨-, hk⟩ := execWord_installs_or_keeps h
    · exact .inl ⟨cw, rest, rfl, hd, hr, rfl⟩
    · exact .inr hk.configured_eq

theorem ownStatus_ne_errNotconf (s : State) (i : Instr) : ownStatus s i ≠ .errNotconf := by
  cases i with
  | updatew | build => rw [ownStatus]; split <;> decide
  | _ => exact nofun

/-- Only check 3 has the status `ERR_NOTCONF`. -/
theorem not_configured_of_errNotconf {s : State} {i : Instr} (h : expectedStatus s (encode i) = .errNotconf) :
    s.configured = false ∧ needsConfigured (opcode i) = true := by
  rw [expectedStatus_encode] at h
  split at h
  · cases h
  · split at h
    next hc => exact hc.symm
    next => exact absurd h (ownStatus_ne_errNotconf s i)

/-- Settles O15: a step can only build an engine, and the status `ERR_NOTCONF` is that of check 3. -/
theorem configuredFlag : Obligations.ConfiguredFlag := by
  refine ⟨?_, ?_, ?_, ?_⟩
  · intro s t h hc
    obtain ⟨_, _, -, -, -, ht⟩ | ht := configured_of_step h
    · exact ht
    · exact ht.trans hc
  · intro s t h hs ht
    obtain ⟨cw, rest, hp, hd, hr, -⟩ | heq := configured_of_step h
    · exact ⟨cw, rest, hp, hd, hr⟩
    · exact absurd (hs.symm.trans (heq.symm.trans ht)) Bool.false_ne_true
  · intro i s hc hn hw
    exact exec_of_not_configured hw hn hc
  · intro i s t d h hr
    have answers := exec_answers_expectedStatus s i
    exact not_configured_of_errNotconf (answers.of_next h hr).1.symm

end Sys2Proof.Machine
end

section
/-! Proofs of the statements of 70_reset_and_hazards.md: the unspecified power-on contents reach no response, and what BUILD right
after power-on does. -/

namespace Sys2Proof.Machine

/-! ## The unspecified contents while CONFIGURED = 0 (R222) -/

/-- Without an engine, a command that needs one fails at check 2 or at check 3 and reads nothing of the engine. -/
theorem exec_of_needsConfigured {s : State} {i : Instr} (hn : needsConfigured (opcode i) = true) (hc : s.configured = false) :
    exec i s = .next (respond s (if i.wellFormed s.cfg then .errNotconf else .errOperand) 0) := by
  cases hw : i.wellFormed s.cfg
  · exact exec_of_not_wellFormed hw
  · exact exec_of_not_configured hw hn hc

section

variable {s t : State}

theorem SameSpecified.responses_eq (h : SameSpecified s t) : t.responses = s.responses := by
  obtain rfl | ⟨-, u, rfl⟩ := h <;> rfl

theorem SameSpecified.pending_eq (h : SameSpecified s t) : t.pending = s.pending := by
  obtain rfl | ⟨-, u, rfl⟩ := h <;> rfl

theorem SameSpecified.withPending (h : SameSpecified s t) (cws : List CommandWord) :
    SameSpecified { s with pending := cws } { t with pending := cws } := by
  obtain rfl | ⟨hc, u, rfl⟩ := h
  · exact .inl rfl
  · exact .inr ⟨hc, u, rfl⟩

protected theorem SameSpecified.respond (h : SameSpecified s t) (st : Status) (d : Data) :
    SameSpecified (respond s st d) (respond t st d) := by
  obtain rfl | ⟨hc, u, rfl⟩ := h
  · exact .inl rfl
  · exact .inr ⟨hc, u, rfl⟩

/-- While CONFIGURED = 0 no command reads the unspecified contents, and the one that writes them, BUILD, writes them all. -/
theorem exec_ignores_contents (i : Instr) (hc : s.configured = false) (u : PowerOnContents s.cfg) :
    Paired SameSpecified (exec i s) (exec i (s.withContents u)) := by
  have hs : SameSpecified s (s.withContents u) := .inr ⟨hc, u, rfl⟩
  have herr (e : Status) := hs.respond e 0
  cases i with
  | status =>
    have word : statusWord (s.withContents u) = statusWord s := by
      simp only [statusWord, refBit, State.withContents, hc, Bool.false_and]
    simp only [exec, execStatus, word]
    exact .of_rel (hs.respond _ _)
  | setpoly imm =>
    simp only [exec, execSetpoly]
    exact .withOperand rfl herr (.of_rel (.inr ⟨hc, u, rfl⟩))
  | setinit imm =>
    simp only [exec, execSetinit]
    exact .withOperand rfl herr (.of_rel (.inr ⟨hc, u, rfl⟩))
  | setxor imm =>
    simp only [exec, execSetxor]
    exact .withOperand rfl herr (.of_rel (.inr ⟨hc, u, rfl⟩))
  | setref rin rout => exact .of_rel (.inr ⟨hc, u, rfl⟩)
  | build =>
    by_cases hr : stagedRefused s = false
    · rw [exec_build_of_accepted hr, exec_build_of_accepted (s := s.withContents u) hr]
      exact .of_rel (.inl rfl)
    · rw [exec_build_of_refused hr, exec_build_of_refused (s := s.withContents u) hr]
      exact .of_rel (herr _)
  | update | updatew | reset | value | seed | table =>
    rw [exec_of_needsConfigured rfl hc, exec_of_needsConfigured rfl (s := s.withContents u) hc]
    exact .of_rel (herr _)
  | reflect imm =>
    simp only [exec, execReflect]
    exact .withOperand rfl herr (.of_rel (hs.respond _ _))

theorem execWord_keeps_sameSpecified (h : SameSpecified s t) (cw : CommandWord) :
    Paired SameSpecified (execWord cw s) (execWord cw t) := by
  cases hd : decode cw with
  | instr i =>
    rw [execWord_of_instr s hd, execWord_of_instr t hd]
    obtain rfl | ⟨hc, u, rfl⟩ := h
    · obtain ⟨t', ht⟩ := exec_answers t i
      exact ⟨t', t', ht, ht, .inl rfl⟩
    · exact exec_ignores_contents i hc u
  | illegal =>
    rw [execWord_of_illegal s hd, execWord_of_illegal t hd]
    exact .of_rel (h.respond _ _)
  | operand =>
    rw [execWord_of_operand s hd, execWord_of_operand t hd]
    exact .of_rel (h.respond _ _)

theorem step_keeps_sameSpecified (h : SameSpecified s t) : Paired SameSpecified (step s) (step t) := by
  have hpt := h.pending_eq
  cases hp : s.pending with
  | nil =>
    rw [step_nil s hp, step_nil t (hpt.trans hp)]
    exact .of_rel h
  | cons cw rest =>
    rw [step_cons s cw rest hp, step_cons t cw rest (hpt.trans hp)]
    exact execWord_keeps_sameSpecified (h.withPending rest) cw

end

theorem coreRun_succ {s s' : State} (h : step s = .next s') (k : Nat) :
    Sys2Proof.core.run (k + 1) s = Sys2Proof.core.run k s' := by
  have hcore : Sys2Proof.core.step s = .next s' := h
  simp only [Host.Core.run, hcore]

/-- What related states keep in every step they keep in every run. -/
theorem coreRun_paired {Rel : State → State → Prop} (hstep : ∀ s t, Rel s t → Paired Rel (step s) (step t)) (k : Nat) {s t : State}
    (h : Rel s t) : Paired Rel (Sys2Proof.core.run k s) (Sys2Proof.core.run k t) := by
  induction k generalizing s t with
  | zero => exact .of_rel h
  | succ k ih =>
    obtain ⟨s', t', hs, ht, h'⟩ := hstep s t h
    rw [coreRun_succ hs, coreRun_succ ht]
    exact ih h'

/-- Power-on states differ in the unspecified contents only, and there is no engine. -/
theorem powerOn_sameSpecified (cfg : Config) (u v : PowerOnContents cfg) :
    SameSpecified (State.powerOn cfg u) (State.powerOn cfg v) := .inr ⟨rfl, v, rfl⟩

/-- Settles O19: a step keeps the relation, and so does a run; related states have given the same responses. -/
theorem powerOnContentsUnobservable : Obligations.PowerOnContentsUnobservable := by
  constructor
  · intro s t h
    obtain ⟨s', t', hs, ht, h'⟩ := step_keeps_sameSpecified h
    exact ⟨s', t', hs, ht, h', h'.responses_eq⟩
  · intro cfg u v cws k
    have start := (powerOn_sameSpecified cfg u v).withPending cws
    obtain ⟨s, t, hs, ht, h⟩ := coreRun_paired (fun _ _ => step_keeps_sameSpecified) k start
    exact ⟨s, t, hs, ht, h.responses_eq.symm⟩

/-! ## BUILD right after power-on (R223, R183) -/

/-- The staged set of power-on is refused by the closed form only. -/
theorem stagedRefused_powerOn (cfg : Config) (u : PowerOnContents cfg) :
    stagedRefused (State.powerOn cfg u) = cfg.closedForm := by
  simp [stagedRefused, State.powerOn]

/-- With the zero polynomial nothing ever enters a register that holds 0. -/
theorem fold_zero_poly_zero {w : Nat} (ref : Bool) (bytes : List Byte) (hw : 8 ≤ w) :
    fold ref (0 : BitVec w) bytes (buildTable ref 0) = 0 := by
  induction bytes with
  | nil => rfl
  | cons b rest ih =>
    have stays : upd ref (0 : BitVec w) b (buildTable ref 0) = 0 := by
      rw [upd_zero_poly ref 0 b hw]
      cases ref <;> simp
    rw [fold_cons, stays, ih]

theorem fin_false_zero_zero (w : Nat) : fin false (0 : BitVec w) 0 = BitVec.allOnes w := by simp [fin_false]

/-- After a message VALUE answers with the finalized fold of its bytes. -/
theorem exec_value_absorb {s : State} {c : BitVec 8} (h : c.toNat < s.cfg.nctx) (hc : s.configured = true) (bytes : List Byte) :
    exec (.value c) (absorb s ⟨c.toNat, h⟩ bytes) = .next (respond (absorb s ⟨c.toNat, h⟩ bytes) .ok
      (zext64 (fin s.aRef (fold s.aRef (readCrc s ⟨c.toNat, h⟩) bytes s.table) s.aXor))) := by
  rw [← readCrc_absorb]
  exact exec_value_of_configured (s := absorb s ⟨c.toNat, h⟩ bytes) h hc

/-- An engine of the zero set, not reflected, with 0 in the register of `c`: after any message that register holds 0 still, and
VALUE is its complement. -/
theorem value_of_zero_engine {s : State} {c : BitVec 8} (h : c.toNat < s.cfg.nctx) (hc : s.configured = true)
    (href : s.aRef = false) (hxor : s.aXor = 0) (htable : s.table = buildTable false 0) (hcrc : readCrc s ⟨c.toNat, h⟩ = 0)
    (bytes : List Byte) : ∃ t t', execAll (updateCommands c bytes) s = .next t ∧ t.configured = true ∧
      exec (.value c) t = .next t' ∧ t'.responses = t.responses ++ [⟨.ok, zext64 (BitVec.allOnes s.cfg.w)⟩] := by
  have value : fin s.aRef (fold s.aRef (readCrc s ⟨c.toNat, h⟩) bytes s.table) s.aXor = BitVec.allOnes s.cfg.w := by
    rw [href, hxor, htable, hcrc, fold_zero_poly_zero false bytes (Nat.le_trans (by decide) s.cfg.le_w), fin_false_zero_zero]
  exact ⟨_, _, execAll_updateCommands h hc bytes, hc, exec_value_absorb h hc bytes, by rw [value, respond_responses]⟩

/-- Settles O24: BUILD installs the zero set, unless the closed form refuses it. -/
theorem buildAfterPowerOn : Obligations.BuildAfterPowerOn := by
  constructor
  · intro cfg u c bytes hcf hlt
    have built := exec_build_of_accepted ((stagedRefused_powerOn cfg u).trans hcf)
    rw [execAll_cons_of_next _ built]
    exact value_of_zero_engine (s := respond (installEngine (State.powerOn cfg u)) .ok 0) hlt rfl rfl rfl rfl
      (Vector.getElem_replicate hlt) bytes
  · intro cfg u hcf
    have refused : stagedRefused (State.powerOn cfg u) ≠ false := by simp [stagedRefused_powerOn, hcf]
    exact exec_build_of_refused refused

end Sys2Proof.Machine
end
